-- ==== Sys2Proof/Word.lean ====
section
/-! DEFINITION. The data types of LA32R (`00_scope.md` R9): byte, halfword, word. -/

namespace Sys2Proof

/-- A byte, 8 bits (R9). -/
abbrev Byte := BitVec 8

/-- A halfword, 16 bits (R9). -/
abbrev Half := BitVec 16

/-- A word, 32 bits: general registers, the PC, virtual and physical addresses, CSRs (R7, R9). -/
abbrev Word := BitVec 32

end Sys2Proof
end

