-- ==== Sys2Proof/Syntax.lean ====
section
/-! DEFINITION. The 69 instructions of LA32R (`30_encoding.md` R160), one constructor per row of
spec/opcode_table.json, with the operands of R144 as the fields of the instruction word hold them.
Operands stand in the assembler order of R160. -/

namespace Sys2Proof

/-- The number of a general register: a 5-bit field of the instruction word (R141). -/
abbrev Reg := BitVec 5

/-- The ABI name of a general register (`10_state.md` R21); a software convention only. -/
def Reg.abiName : Reg → String
  | 0 => "zero" | 1 => "ra" | 2 => "tp" | 3 => "sp"
  | 4 => "a0" | 5 => "a1" | 6 => "a2" | 7 => "a3" | 8 => "a4" | 9 => "a5" | 10 => "a6" | 11 => "a7"
  | 12 => "t0" | 13 => "t1" | 14 => "t2" | 15 => "t3" | 16 => "t4" | 17 => "t5" | 18 => "t6"
  | 19 => "t7" | 20 => "t8" | 21 => "reserved" | 22 => "fp"
  | 23 => "s0" | 24 => "s1" | 25 => "s2" | 26 => "s3" | 27 => "s4" | 28 => "s5" | 29 => "s6"
  | 30 => "s7" | _ => "s8"

/-- The instructions of LA32R, in the order of spec/opcode_table.json. -/
inductive Instr where
  /-- ADD.W rd, rj, rk (R201) -/
  | addW (rd rj rk : Reg)
  /-- SUB.W rd, rj, rk (R202) -/
  | subW (rd rj rk : Reg)
  /-- SLT rd, rj, rk (R204) -/
  | slt (rd rj rk : Reg)
  /-- SLTU rd, rj, rk (R205) -/
  | sltu (rd rj rk : Reg)
  /-- NOR rd, rj, rk (R210) -/
  | nor (rd rj rk : Reg)
  /-- AND rd, rj, rk (R208) -/
  | and (rd rj rk : Reg)
  /-- OR rd, rj, rk (R209) -/
  | or (rd rj rk : Reg)
  /-- XOR rd, rj, rk (R211) -/
  | xor (rd rj rk : Reg)
  /-- ORN rd, rj, rk (R213) -/
  | orn (rd rj rk : Reg)
  /-- ANDN rd, rj, rk (R212) -/
  | andn (rd rj rk : Reg)
  /-- SLL.W rd, rj, rk (R217) -/
  | sllW (rd rj rk : Reg)
  /-- SRL.W rd, rj, rk (R218) -/
  | srlW (rd rj rk : Reg)
  /-- SRA.W rd, rj, rk (R219) -/
  | sraW (rd rj rk : Reg)
  /-- MUL.W rd, rj, rk (R241) -/
  | mulW (rd rj rk : Reg)
  /-- MULH.W rd, rj, rk (R242) -/
  | mulhW (rd rj rk : Reg)
  /-- MULH.WU rd, rj, rk (R243) -/
  | mulhWu (rd rj rk : Reg)
  /-- DIV.W rd, rj, rk (R244) -/
  | divW (rd rj rk : Reg)
  /-- MOD.W rd, rj, rk (R245) -/
  | modW (rd rj rk : Reg)
  /-- DIV.WU rd, rj, rk (R246) -/
  | divWu (rd rj rk : Reg)
  /-- MOD.WU rd, rj, rk (R247) -/
  | modWu (rd rj rk : Reg)
  /-- SLLI.W rd, rj, ui5 (R220) -/
  | slliW (rd rj : Reg) (ui5 : BitVec 5)
  /-- SRLI.W rd, rj, ui5 (R221) -/
  | srliW (rd rj : Reg) (ui5 : BitVec 5)
  /-- SRAI.W rd, rj, ui5 (R222) -/
  | sraiW (rd rj : Reg) (ui5 : BitVec 5)
  /-- SLTI rd, rj, si12 (R206) -/
  | slti (rd rj : Reg) (si12 : BitVec 12)
  /-- SLTUI rd, rj, si12 (R207) -/
  | sltui (rd rj : Reg) (si12 : BitVec 12)
  /-- ADDI.W rd, rj, si12 (R203) -/
  | addiW (rd rj : Reg) (si12 : BitVec 12)
  /-- ANDI rd, rj, ui12 (R214) -/
  | andi (rd rj : Reg) (ui12 : BitVec 12)
  /-- ORI rd, rj, ui12 (R215) -/
  | ori (rd rj : Reg) (ui12 : BitVec 12)
  /-- XORI rd, rj, ui12 (R216) -/
  | xori (rd rj : Reg) (ui12 : BitVec 12)
  /-- LU12I.W rd, si20 (R223) -/
  | lu12iW (rd : Reg) (si20 : BitVec 20)
  /-- PCADDU12I rd, si20 (R224) -/
  | pcaddu12i (rd : Reg) (si20 : BitVec 20)
  /-- LD.B rd, rj, si12 (R281) -/
  | ldB (rd rj : Reg) (si12 : BitVec 12)
  /-- LD.H rd, rj, si12 (R282) -/
  | ldH (rd rj : Reg) (si12 : BitVec 12)
  /-- LD.W rd, rj, si12 (R283) -/
  | ldW (rd rj : Reg) (si12 : BitVec 12)
  /-- ST.B rd, rj, si12 (R286); rd is the data source -/
  | stB (rd rj : Reg) (si12 : BitVec 12)
  /-- ST.H rd, rj, si12 (R287); rd is the data source -/
  | stH (rd rj : Reg) (si12 : BitVec 12)
  /-- ST.W rd, rj, si12 (R288); rd is the data source -/
  | stW (rd rj : Reg) (si12 : BitVec 12)
  /-- LD.BU rd, rj, si12 (R284) -/
  | ldBu (rd rj : Reg) (si12 : BitVec 12)
  /-- LD.HU rd, rj, si12 (R285) -/
  | ldHu (rd rj : Reg) (si12 : BitVec 12)
  /-- PRELD hint, rj, si12 (R299) -/
  | preld (hint : BitVec 5) (rj : Reg) (si12 : BitVec 12)
  /-- LL.W rd, rj, si14 (R295) -/
  | llW (rd rj : Reg) (si14 : BitVec 14)
  /-- SC.W rd, rj, si14 (R296); rd is data source and destination -/
  | scW (rd rj : Reg) (si14 : BitVec 14)
  /-- DBAR hint (R310) -/
  | dbar (hint : BitVec 15)
  /-- IBAR hint (R311) -/
  | ibar (hint : BitVec 15)
  /-- JIRL rd, rj, offs16 (R269) -/
  | jirl (rd rj : Reg) (offs16 : BitVec 16)
  /-- B offs26 (R267) -/
  | b (offs26 : BitVec 26)
  /-- BL offs26 (R268) -/
  | bl (offs26 : BitVec 26)
  /-- BEQ rj, rd, offs16 (R261); rd is a source -/
  | beq (rj rd : Reg) (offs16 : BitVec 16)
  /-- BNE rj, rd, offs16 (R262) -/
  | bne (rj rd : Reg) (offs16 : BitVec 16)
  /-- BLT rj, rd, offs16 (R263) -/
  | blt (rj rd : Reg) (offs16 : BitVec 16)
  /-- BGE rj, rd, offs16 (R264) -/
  | bge (rj rd : Reg) (offs16 : BitVec 16)
  /-- BLTU rj, rd, offs16 (R265) -/
  | bltu (rj rd : Reg) (offs16 : BitVec 16)
  /-- BGEU rj, rd, offs16 (R266) -/
  | bgeu (rj rd : Reg) (offs16 : BitVec 16)
  /-- RDCNTVL.W rd (R320) -/
  | rdcntvlW (rd : Reg)
  /-- RDCNTVH.W rd (R321) -/
  | rdcntvhW (rd : Reg)
  /-- RDCNTID rj (R322); the destination is rj -/
  | rdcntid (rj : Reg)
  /-- BREAK code (R316) -/
  | brk (code : BitVec 15)
  /-- SYSCALL code (R315) -/
  | syscall (code : BitVec 15)
  /-- CSRRD rd, csr (R330) -/
  | csrrd (rd : Reg) (csr : BitVec 14)
  /-- CSRWR rd, csr (R331) -/
  | csrwr (rd : Reg) (csr : BitVec 14)
  /-- CSRXCHG rd, rj, csr (R332) -/
  | csrxchg (rd rj : Reg) (csr : BitVec 14)
  /-- CACOP code, rj, si12 (R340) -/
  | cacop (code : BitVec 5) (rj : Reg) (si12 : BitVec 12)
  /-- TLBSRCH (R344) -/
  | tlbsrch
  /-- TLBRD (R345) -/
  | tlbrd
  /-- TLBWR (R346) -/
  | tlbwr
  /-- TLBFILL (R347) -/
  | tlbfill
  /-- ERTN (R360) -/
  | ertn
  /-- INVTLB op, rj, rk (R350) -/
  | invtlb (op : BitVec 5) (rj rk : Reg)
  /-- IDLE hint (R365) -/
  | idle (hint : BitVec 15)
deriving DecidableEq, Repr

/-- The pseudo-instructions of R181: assembler spellings, not instructions of the machine. -/
inductive Pseudo where
  /-- `jr rj` -/
  | jr (rj : Reg)
  /-- `jirl rj`, the one-operand call form -/
  | call (rj : Reg)
  /-- `move rd, rj` -/
  | move (rd rj : Reg)
  /-- `beqz rj, label` -/
  | beqz (rj : Reg) (offs16 : BitVec 16)
  /-- `la rd, symbol`, the absolute form -/
  | la (rd : Reg) (symbol : Word)
  /-- `nop` -/
  | nop
  /-- `li.w rd, imm32`, the two-instruction form of `40_integer.md` R225 -/
  | liW (rd : Reg) (imm : Word)
deriving DecidableEq, Repr

end Sys2Proof
end

