-- ==== Sys2Proof/WellFormed.lean ====
section
/-! DEFINITION. Which instruction terms have an encoding of their own. The operand widths are in the
types of Instr; three further conditions come from the opcode map (`30_encoding.md` R161, R165, R170). -/

namespace Sys2Proof

/-- `true` when the term is what some instruction word decodes to.
CSRXCHG: the rj field is neither 0 nor 1 (R150, R165: those words are CSRRD and CSRWR).
RDCNTID: rj is not 0 (R165: word 0x00006000 is RDCNTVL.W r0).
INVTLB: op is 0..6 (`45_privileged.md` R350: op 7..31 is not an instruction). -/
def Instr.wf : Instr → Bool
  | .csrxchg _ rj _ => rj != 0#5 && rj != 1#5
  | .rdcntid rj => rj != 0#5
  | .invtlb op _ _ => decide (op.toNat ≤ 6)
  | _ => true

end Sys2Proof
end

