-- ==== Sys2Proof/Decode.lean ====
section
/-! DEFINITION. From instruction words to instructions and back (`30_encoding.md` R140 to R171).
The decoder reads the opcode map of R161 from the left: first bits 31:26, then the rest of the opcode
of the row's format. Every word it does not accept is rejected under a name. -/

namespace Sys2Proof

/-- The four floating-point words that R156 transcribes so that a decoder can recognise them. -/
inductive FpWord where
  | faddS
  | fabsS
  | fmaddS
  | bceqz
deriving DecidableEq, Repr

/-- Why a word is not an instruction of this hardware; each of them raises INE (R170). -/
inductive Reject where
  /-- a floating-point word of R156 -/
  | floatingPoint (f : FpWord)
  /-- RDCNT with both rd and rj, or RDCNTVH.W with rj not 0 (R170, D35) -/
  | rdcntForm
  /-- INVTLB with op above 6 (R170, D28) -/
  | invtlbOp
  /-- no row of the opcode map has this opcode (R170, D19) -/
  | undefinedOpcode
  /-- fewer than four bytes were given; no fetch gives so few (R83) -/
  | tooShort
deriving DecidableEq, Repr

/-- What a word decodes to. -/
inductive Decoded where
  | instr (i : Instr)
  | reject (why : Reject)
deriving DecidableEq, Repr

/-! Fields of the instruction word (R142, R143, R144). -/

/-- rd, bits 4:0 -/
def fieldRd (w : Word) : Reg := w.extractLsb' 0 5
/-- rj, bits 9:5 -/
def fieldRj (w : Word) : Reg := w.extractLsb' 5 5
/-- rk or ui5, bits 14:10 -/
def fieldRk (w : Word) : BitVec 5 := w.extractLsb' 10 5
/-- si12 or ui12, bits 21:10 -/
def fieldI12 (w : Word) : BitVec 12 := w.extractLsb' 10 12
/-- si14 or csr, bits 23:10 -/
def fieldI14 (w : Word) : BitVec 14 := w.extractLsb' 10 14
/-- offs16, bits 25:10 -/
def fieldI16 (w : Word) : BitVec 16 := w.extractLsb' 10 16
/-- si20, bits 24:5 -/
def fieldI20 (w : Word) : BitVec 20 := w.extractLsb' 5 20
/-- code or hint, bits 14:0 -/
def fieldI15 (w : Word) : BitVec 15 := w.extractLsb' 0 15
/-- offs26 = bits 9:0, then bits 25:10 -/
def fieldI26 (w : Word) : BitVec 26 := w.extractLsb' 0 10 ++ w.extractLsb' 10 16

/-- The 6-bit opcode, bits 31:26 (2RI16, I26), where every opcode begins. -/
def opcode6 (w : Word) : BitVec 6 := w.extractLsb' 26 6
/-- The 7-bit opcode, bits 31:25 (1RI20). -/
def opcode7 (w : Word) : BitVec 7 := w.extractLsb' 25 7
/-- The 8-bit opcode, bits 31:24 (2RI14). -/
def opcode8 (w : Word) : BitVec 8 := w.extractLsb' 24 8
/-- The 10-bit opcode, bits 31:22 (2RI12). -/
def opcode10 (w : Word) : BitVec 10 := w.extractLsb' 22 10
/-- The 17-bit opcode, bits 31:15 (3R, 2RI5, I15, 3R-op). -/
def opcode17 (w : Word) : BitVec 17 := w.extractLsb' 15 17
/-- The 22-bit opcode, bits 31:10 (2R, 0R). -/
def opcode22 (w : Word) : BitVec 22 := w.extractLsb' 10 22

/-- 3R, I15 and 2R rows whose bits 31:22 are 0 (R161); RDCNT by R165. -/
def decodeRegister (w : Word) : Decoded :=
  let rd := fieldRd w
  let rj := fieldRj w
  let rk := fieldRk w
  let op := opcode17 w
  if op = 0x00020#17 then .instr (.addW rd rj rk)
  else if op = 0x00022#17 then .instr (.subW rd rj rk)
  else if op = 0x00024#17 then .instr (.slt rd rj rk)
  else if op = 0x00025#17 then .instr (.sltu rd rj rk)
  else if op = 0x00028#17 then .instr (.nor rd rj rk)
  else if op = 0x00029#17 then .instr (.and rd rj rk)
  else if op = 0x0002A#17 then .instr (.or rd rj rk)
  else if op = 0x0002B#17 then .instr (.xor rd rj rk)
  else if op = 0x0002C#17 then .instr (.orn rd rj rk)
  else if op = 0x0002D#17 then .instr (.andn rd rj rk)
  else if op = 0x0002E#17 then .instr (.sllW rd rj rk)
  else if op = 0x0002F#17 then .instr (.srlW rd rj rk)
  else if op = 0x00030#17 then .instr (.sraW rd rj rk)
  else if op = 0x00038#17 then .instr (.mulW rd rj rk)
  else if op = 0x00039#17 then .instr (.mulhW rd rj rk)
  else if op = 0x0003A#17 then .instr (.mulhWu rd rj rk)
  else if op = 0x00040#17 then .instr (.divW rd rj rk)
  else if op = 0x00041#17 then .instr (.modW rd rj rk)
  else if op = 0x00042#17 then .instr (.divWu rd rj rk)
  else if op = 0x00043#17 then .instr (.modWu rd rj rk)
  else if op = 0x00054#17 then .instr (.brk (fieldI15 w))
  else if op = 0x00056#17 then .instr (.syscall (fieldI15 w))
  else if opcode22 w = 0x000018#22 then
    if rj = 0#5 then .instr (.rdcntvlW rd)
    else if rd = 0#5 then .instr (.rdcntid rj)
    else .reject .rdcntForm
  else if opcode22 w = 0x000019#22 then
    if rj = 0#5 then .instr (.rdcntvhW rd) else .reject .rdcntForm
  else .reject .undefinedOpcode

/-- 2RI5 rows: bits 31:22 are 1 (R161). -/
def decodeShiftImmediate (w : Word) : Decoded :=
  let op := opcode17 w
  if op = 0x00081#17 then .instr (.slliW (fieldRd w) (fieldRj w) (fieldRk w))
  else if op = 0x00089#17 then .instr (.srliW (fieldRd w) (fieldRj w) (fieldRk w))
  else if op = 0x00091#17 then .instr (.sraiW (fieldRd w) (fieldRj w) (fieldRk w))
  else .reject .undefinedOpcode

/-- Rows whose bits 31:26 are 0: registers, shifts by immediate, 2RI12 arithmetic (R161); the
floating-point words of R156 that lie here are recognised. -/
def decodeMajor00 (w : Word) : Decoded :=
  let op := opcode10 w
  if op = 0x000#10 then decodeRegister w
  else if op = 0x001#10 then decodeShiftImmediate w
  else if op = 0x008#10 then .instr (.slti (fieldRd w) (fieldRj w) (fieldI12 w))
  else if op = 0x009#10 then .instr (.sltui (fieldRd w) (fieldRj w) (fieldI12 w))
  else if op = 0x00A#10 then .instr (.addiW (fieldRd w) (fieldRj w) (fieldI12 w))
  else if op = 0x00D#10 then .instr (.andi (fieldRd w) (fieldRj w) (fieldI12 w))
  else if op = 0x00E#10 then .instr (.ori (fieldRd w) (fieldRj w) (fieldI12 w))
  else if op = 0x00F#10 then .instr (.xori (fieldRd w) (fieldRj w) (fieldI12 w))
  else if opcode17 w = 0x00201#17 then .reject (.floatingPoint .faddS)
  else if opcode22 w = 0x004501#22 then .reject (.floatingPoint .fabsS)
  else .reject .undefinedOpcode

/-- 0R, IDLE and INVTLB rows: bits 31:22 are 0x019 (R161). -/
def decodePrivileged (w : Word) : Decoded :=
  if opcode17 w = 0x00C91#17 then .instr (.idle (fieldI15 w))
  else if opcode17 w = 0x00C93#17 then
    if (w.extractLsb' 0 5).toNat ≤ 6 then .instr (.invtlb (fieldRd w) (fieldRj w) (fieldRk w))
    else .reject .invtlbOp
  else if w = 0x06482800#32 then .instr .tlbsrch
  else if w = 0x06482C00#32 then .instr .tlbrd
  else if w = 0x06483000#32 then .instr .tlbwr
  else if w = 0x06483400#32 then .instr .tlbfill
  else if w = 0x06483800#32 then .instr .ertn
  else .reject .undefinedOpcode

/-- Rows whose bits 31:26 are 1: CSR access (the rj field selects, R165), CACOP and the TLB rows. -/
def decodeMajor01 (w : Word) : Decoded :=
  if opcode8 w = 0x04#8 then
    if fieldRj w = 0#5 then .instr (.csrrd (fieldRd w) (fieldI14 w))
    else if fieldRj w = 1#5 then .instr (.csrwr (fieldRd w) (fieldI14 w))
    else .instr (.csrxchg (fieldRd w) (fieldRj w) (fieldI14 w))
  else if opcode10 w = 0x018#10 then .instr (.cacop (fieldRd w) (fieldRj w) (fieldI12 w))
  else if opcode10 w = 0x019#10 then decodePrivileged w
  else .reject .undefinedOpcode

/-- Load, store and PRELD rows: bits 31:26 are 0x0A (R161). -/
def decodeMajor0A (w : Word) : Decoded :=
  let op := opcode10 w
  if op = 0x0A0#10 then .instr (.ldB (fieldRd w) (fieldRj w) (fieldI12 w))
  else if op = 0x0A1#10 then .instr (.ldH (fieldRd w) (fieldRj w) (fieldI12 w))
  else if op = 0x0A2#10 then .instr (.ldW (fieldRd w) (fieldRj w) (fieldI12 w))
  else if op = 0x0A4#10 then .instr (.stB (fieldRd w) (fieldRj w) (fieldI12 w))
  else if op = 0x0A5#10 then .instr (.stH (fieldRd w) (fieldRj w) (fieldI12 w))
  else if op = 0x0A6#10 then .instr (.stW (fieldRd w) (fieldRj w) (fieldI12 w))
  else if op = 0x0A8#10 then .instr (.ldBu (fieldRd w) (fieldRj w) (fieldI12 w))
  else if op = 0x0A9#10 then .instr (.ldHu (fieldRd w) (fieldRj w) (fieldI12 w))
  else if op = 0x0AB#10 then .instr (.preld (fieldRd w) (fieldRj w) (fieldI12 w))
  else .reject .undefinedOpcode

/-- The decoder: total on every word (R165, R170). -/
def decodeWord (w : Word) : Decoded :=
  let op := opcode6 w
  if op = 0x00#6 then decodeMajor00 w
  else if op = 0x01#6 then decodeMajor01 w
  else if op = 0x02#6 then
    if w.extractLsb' 20 12 = 0x081#12 then .reject (.floatingPoint .fmaddS)
    else .reject .undefinedOpcode
  else if op = 0x05#6 then
    if opcode7 w = 0x0A#7 then .instr (.lu12iW (fieldRd w) (fieldI20 w))
    else .reject .undefinedOpcode
  else if op = 0x07#6 then
    if opcode7 w = 0x0E#7 then .instr (.pcaddu12i (fieldRd w) (fieldI20 w))
    else .reject .undefinedOpcode
  else if op = 0x08#6 then
    if opcode8 w = 0x20#8 then .instr (.llW (fieldRd w) (fieldRj w) (fieldI14 w))
    else if opcode8 w = 0x21#8 then .instr (.scW (fieldRd w) (fieldRj w) (fieldI14 w))
    else .reject .undefinedOpcode
  else if op = 0x0A#6 then decodeMajor0A w
  else if op = 0x0E#6 then
    if opcode17 w = 0x070E4#17 then .instr (.dbar (fieldI15 w))
    else if opcode17 w = 0x070E5#17 then .instr (.ibar (fieldI15 w))
    else .reject .undefinedOpcode
  else if op = 0x12#6 then
    if w.extractLsb' 8 2 = 0#2 then .reject (.floatingPoint .bceqz)
    else .reject .undefinedOpcode
  else if op = 0x13#6 then .instr (.jirl (fieldRd w) (fieldRj w) (fieldI16 w))
  else if op = 0x14#6 then .instr (.b (fieldI26 w))
  else if op = 0x15#6 then .instr (.bl (fieldI26 w))
  else if op = 0x16#6 then .instr (.beq (fieldRj w) (fieldRd w) (fieldI16 w))
  else if op = 0x17#6 then .instr (.bne (fieldRj w) (fieldRd w) (fieldI16 w))
  else if op = 0x18#6 then .instr (.blt (fieldRj w) (fieldRd w) (fieldI16 w))
  else if op = 0x19#6 then .instr (.bge (fieldRj w) (fieldRd w) (fieldI16 w))
  else if op = 0x1A#6 then .instr (.bltu (fieldRj w) (fieldRd w) (fieldI16 w))
  else if op = 0x1B#6 then .instr (.bgeu (fieldRj w) (fieldRd w) (fieldI16 w))
  else .reject .undefinedOpcode

/-! Byte order of a word in memory (`20_memory.md` R82, R83). -/

/-- The four bytes of a word, lowest address first. -/
def wordBytes (w : Word) : List Byte :=
  [w.extractLsb' 0 8, w.extractLsb' 8 8, w.extractLsb' 16 8, w.extractLsb' 24 8]

/-- The instruction at the head of the bytes of a fetch. -/
def decodeBytes : List Byte → Decoded
  | b0 :: b1 :: b2 :: b3 :: _ => decodeWord (b3 ++ b2 ++ b1 ++ b0)
  | _ => .reject .tooShort

/-! The encoder, from the same table (R142, R143, R161). -/

/-- 3R: opcode, rk, rj, rd. Also 2RI5 (ui5 in the place of rk) and 3R-op (op in the place of rd). -/
def encode3R (op : BitVec 17) (rk rj rd : BitVec 5) : Word := op ++ rk ++ rj ++ rd
/-- 2RI12: opcode, imm12, rj, rd. -/
def encode2RI12 (op : BitVec 10) (imm : BitVec 12) (rj rd : BitVec 5) : Word := op ++ imm ++ rj ++ rd
/-- 2RI14: opcode, imm14, rj, rd. -/
def encode2RI14 (op : BitVec 8) (imm : BitVec 14) (rj rd : BitVec 5) : Word := op ++ imm ++ rj ++ rd
/-- 2RI16: opcode, imm16, rj, rd. -/
def encode2RI16 (op : BitVec 6) (imm : BitVec 16) (rj rd : BitVec 5) : Word := op ++ imm ++ rj ++ rd
/-- 1RI20: opcode, imm20, rd. -/
def encode1RI20 (op : BitVec 7) (imm : BitVec 20) (rd : BitVec 5) : Word := op ++ imm ++ rd
/-- I26: opcode, imm[15:0], imm[25:16]. -/
def encodeI26 (op : BitVec 6) (imm : BitVec 26) : Word := op ++ imm.extractLsb' 0 16 ++ imm.extractLsb' 16 10
/-- I15: opcode, the 15-bit constant. -/
def encodeI15 (op : BitVec 17) (imm : BitVec 15) : Word := op ++ imm
/-- 2R: opcode, rj, rd. -/
def encode2R (op : BitVec 22) (rj rd : BitVec 5) : Word := op ++ rj ++ rd

/-- The instruction word of a well-formed instruction. -/
def encode : Instr → Word
  | .addW rd rj rk => encode3R 0x00020 rk rj rd
  | .subW rd rj rk => encode3R 0x00022 rk rj rd
  | .slt rd rj rk => encode3R 0x00024 rk rj rd
  | .sltu rd rj rk => encode3R 0x00025 rk rj rd
  | .nor rd rj rk => encode3R 0x00028 rk rj rd
  | .and rd rj rk => encode3R 0x00029 rk rj rd
  | .or rd rj rk => encode3R 0x0002A rk rj rd
  | .xor rd rj rk => encode3R 0x0002B rk rj rd
  | .orn rd rj rk => encode3R 0x0002C rk rj rd
  | .andn rd rj rk => encode3R 0x0002D rk rj rd
  | .sllW rd rj rk => encode3R 0x0002E rk rj rd
  | .srlW rd rj rk => encode3R 0x0002F rk rj rd
  | .sraW rd rj rk => encode3R 0x00030 rk rj rd
  | .mulW rd rj rk => encode3R 0x00038 rk rj rd
  | .mulhW rd rj rk => encode3R 0x00039 rk rj rd
  | .mulhWu rd rj rk => encode3R 0x0003A rk rj rd
  | .divW rd rj rk => encode3R 0x00040 rk rj rd
  | .modW rd rj rk => encode3R 0x00041 rk rj rd
  | .divWu rd rj rk => encode3R 0x00042 rk rj rd
  | .modWu rd rj rk => encode3R 0x00043 rk rj rd
  | .slliW rd rj ui5 => encode3R 0x00081 ui5 rj rd
  | .srliW rd rj ui5 => encode3R 0x00089 ui5 rj rd
  | .sraiW rd rj ui5 => encode3R 0x00091 ui5 rj rd
  | .slti rd rj si12 => encode2RI12 0x008 si12 rj rd
  | .sltui rd rj si12 => encode2RI12 0x009 si12 rj rd
  | .addiW rd rj si12 => encode2RI12 0x00A si12 rj rd
  | .andi rd rj ui12 => encode2RI12 0x00D ui12 rj rd
  | .ori rd rj ui12 => encode2RI12 0x00E ui12 rj rd
  | .xori rd rj ui12 => encode2RI12 0x00F ui12 rj rd
  | .lu12iW rd si20 => encode1RI20 0x0A si20 rd
  | .pcaddu12i rd si20 => encode1RI20 0x0E si20 rd
  | .ldB rd rj si12 => encode2RI12 0x0A0 si12 rj rd
  | .ldH rd rj si12 => encode2RI12 0x0A1 si12 rj rd
  | .ldW rd rj si12 => encode2RI12 0x0A2 si12 rj rd
  | .stB rd rj si12 => encode2RI12 0x0A4 si12 rj rd
  | .stH rd rj si12 => encode2RI12 0x0A5 si12 rj rd
  | .stW rd rj si12 => encode2RI12 0x0A6 si12 rj rd
  | .ldBu rd rj si12 => encode2RI12 0x0A8 si12 rj rd
  | .ldHu rd rj si12 => encode2RI12 0x0A9 si12 rj rd
  | .preld hint rj si12 => encode2RI12 0x0AB si12 rj hint
  | .llW rd rj si14 => encode2RI14 0x20 si14 rj rd
  | .scW rd rj si14 => encode2RI14 0x21 si14 rj rd
  | .dbar hint => encodeI15 0x070E4 hint
  | .ibar hint => encodeI15 0x070E5 hint
  | .jirl rd rj offs16 => encode2RI16 0x13 offs16 rj rd
  | .b offs26 => encodeI26 0x14 offs26
  | .bl offs26 => encodeI26 0x15 offs26
  | .beq rj rd offs16 => encode2RI16 0x16 offs16 rj rd
  | .bne rj rd offs16 => encode2RI16 0x17 offs16 rj rd
  | .blt rj rd offs16 => encode2RI16 0x18 offs16 rj rd
  | .bge rj rd offs16 => encode2RI16 0x19 offs16 rj rd
  | .bltu rj rd offs16 => encode2RI16 0x1A offs16 rj rd
  | .bgeu rj rd offs16 => encode2RI16 0x1B offs16 rj rd
  | .rdcntvlW rd => encode2R 0x000018 0 rd
  | .rdcntvhW rd => encode2R 0x000019 0 rd
  | .rdcntid rj => encode2R 0x000018 rj 0
  | .brk code => encodeI15 0x00054 code
  | .syscall code => encodeI15 0x00056 code
  | .csrrd rd csr => encode2RI14 0x04 csr 0 rd
  | .csrwr rd csr => encode2RI14 0x04 csr 1 rd
  | .csrxchg rd rj csr => encode2RI14 0x04 csr rj rd
  | .cacop code rj si12 => encode2RI12 0x018 si12 rj code
  | .tlbsrch => 0x06482800
  | .tlbrd => 0x06482C00
  | .tlbwr => 0x06483000
  | .tlbfill => 0x06483400
  | .ertn => 0x06483800
  | .invtlb op rj rk => encode3R 0x00C93 rk rj op
  | .idle hint => encodeI15 0x00C91 hint

/-- The instruction the decoder reads from the `nbits` low bits of `w`, laid out as four bytes. -/
def decodeTableWord (nbits w : Nat) : Option Instr :=
  match decodeBytes (wordBytes (BitVec.ofNat 32 (w % 2 ^ nbits))) with
  | .instr i => some i
  | .reject _ => none

/-- The expansion of a pseudo-instruction (R181). `la` is the absolute pair of `40_integer.md` R225;
`move` is the `or` form. -/
def Pseudo.expand : Pseudo → List Instr
  | .jr rj => [.jirl 0 rj 0]
  | .call rj => [.jirl 1 rj 0]
  | .move rd rj => [.or rd rj 0]
  | .beqz rj offs16 => [.beq rj 0 offs16]
  | .la rd symbol => [.lu12iW rd (symbol.extractLsb' 12 20), .ori rd rd (symbol.extractLsb' 0 12)]
  | .nop => [.andi 0 0 0]
  | .liW rd imm => [.lu12iW rd (imm.extractLsb' 12 20), .ori rd rd (imm.extractLsb' 0 12)]

end Sys2Proof
end

