-- ==== Sys2Proof/Config.lean ====
section
/-! DEFINITION. What an implementation or its platform fixes (`00_scope.md` R8), and the free values.
The open parameters are a record of plain data that the machine's state carries unchanged, so that a
statement about every state holds for every parameter value (assumption log 4). -/

namespace Sys2Proof

/-- What the platform puts at a range of physical addresses (`20_memory.md` R95); an address in no
range is absent. -/
inductive RegionKind where
  /-- ordinary memory -/
  | ram
  /-- a device: the spec gives its behaviour nothing -/
  | device
deriving DecidableEq, Repr

/-- One range of the physical memory map: `size` bytes from `base` (R95, D31). -/
structure Region where
  base : Nat
  size : Nat
  kind : RegionKind
deriving DecidableEq, Repr

/-- The open parameters of `00_scope.md` R8, less `TLB_ENTRIES`, which is the length of the TLB in
the state. -/
structure Params where
  /-- `TIMER_BITS`, the width N of timer_cnt, 3..32 (D5) -/
  timerBits : Nat
  /-- `LEGAL_PS`, the page-size exponents a TLB entry may hold (D6) -/
  legalPs : List Nat
  /-- `CORE_ID`, the value of CPUID.CoreID (D32) -/
  coreId : BitVec 9
  /-- `TLBRD_INVALID_CLEARS` (D26) -/
  tlbrdInvalidClears : Bool
  /-- `TLBWR_REFILL_FORCES_VALID` (D42) -/
  tlbwrRefillForcesValid : Bool
  /-- the physical memory map (D31) -/
  physMap : List Region
deriving DecidableEq, Repr

/-- The bounds R8 puts on the parameters: N is 3..32, and a page size is one that a VPPN starting at
bit 13 can express (`20_memory.md` R104). -/
def Params.wf (p : Params) : Bool :=
  decide (3 ≤ p.timerBits) && decide (p.timerBits ≤ 32) &&
    p.legalPs.all (fun ps => decide (12 ≤ ps) && decide (ps ≤ 30))

/-- The values R8 suggests. DESIGN CHOICE (log 4); the map makes every address RAM (log 10). -/
def Params.suggested : Params where
  timerBits := 32
  legalPs := [12, 21]
  coreId := 0
  tlbrdInvalidClears := true
  tlbwrRefillForcesValid := false
  physMap := [{ base := 0, size := 2 ^ 32, kind := .ram }]

/-- `RESET_PC` (`10_state.md` R27, D16). -/
def Config.resetPc : Word := 0x1C000000

/-- `TLB_ENTRIES` at reset, the value D4 suggests. DESIGN CHOICE (log 4). -/
def Config.resetTlbEntries : Nat := 32

/-- `DIV_ZERO_RESULT` (`41_muldiv.md` R250 b): the n-th draw. Free: nothing is known of it. -/
opaque Config.divByZeroResult : Nat → Word

/-- The draw behind TLBFILL's index (`45_privileged.md` R347). Free: nothing is known of it; the
index is this number modulo `TLB_ENTRIES`. -/
opaque Config.tlbFillDraw : Nat → Nat

/-- `TIMER_STOP_VALUE` (`60_exceptions.md` R444): the n-th draw. Free: nothing is known of it. -/
opaque Config.timerStopValue : Nat → Word

end Sys2Proof
end

