-- ==== Sys2Proof/Machine/State.lean ====
section
/-! DEFINITION. The state of LA32R (`10_state.md` R70), the model-level stops, and the state after
reset. A CSR is held as its fields (R32 to R56): reserved bits are no state. Fields that the spec
makes constants or views of other state (EUEN.FPE, CPUID, PGD, TVAL, TICLR, CTAG, ROLLB) are read in
Machine/Csr.lean (assumption log 16). -/

namespace Sys2Proof.Machine

/-- CSR 0x0 CRMD (R32). -/
structure Crmd where
  /-- current privilege level -/
  plv : BitVec 2
  /-- global interrupt enable -/
  ie : Bool
  /-- direct address translation mode -/
  da : Bool
  /-- mapped address translation mode -/
  pg : Bool
  /-- memory access type of fetches in direct mode -/
  datf : BitVec 2
  /-- memory access type of loads and stores in direct mode -/
  datm : BitVec 2
deriving DecidableEq, Repr

/-- CSR 0x1 PRMD (R33). -/
structure Prmd where
  pplv : BitVec 2
  pie : Bool
deriving DecidableEq, Repr

/-- CSR 0x4 ECFG (R35): LIE[9:0] and LIE[12:11]; bit 10 is reserved. -/
structure Ecfg where
  lieLow : BitVec 10
  lieHigh : BitVec 2
deriving DecidableEq, Repr

/-- The held part of CSR 0x5 ESTAT (R36); IS[9:2] and IS[12] are the input lines (R63). -/
structure Estat where
  /-- IS[1:0], the software interrupts -/
  swi : BitVec 2
  /-- IS[11], the timer interrupt latch -/
  ti : Bool
  ecode : BitVec 6
  esubcode : BitVec 9
deriving DecidableEq, Repr

/-- CSR 0x10 TLBIDX (R40); Index is `TLB_IDX_BITS` wide, at most 16. -/
structure TlbIdx where
  index : BitVec 16
  ps : BitVec 6
  ne : Bool
deriving DecidableEq, Repr

/-- CSR 0x12 TLBELO0 and 0x13 TLBELO1 (R42). -/
structure TlbElo where
  v : Bool
  d : Bool
  plv : BitVec 2
  mat : BitVec 2
  g : Bool
  ppn : BitVec 20
deriving DecidableEq, Repr

/-- CSR 0x41 TCFG (R50); InitVal is `TIMER_BITS` - 2 wide, at most 30. -/
structure Tcfg where
  en : Bool
  periodic : Bool
  initVal : BitVec 30
deriving DecidableEq, Repr

/-- CSR 0x180 DMW0 and 0x181 DMW1 (R56). -/
structure Dmw where
  plv0 : Bool
  plv3 : Bool
  mat : BitVec 2
  pseg : BitVec 3
  vseg : BitVec 3
deriving DecidableEq, Repr

/-- The control and status registers (R31). -/
structure Csrs where
  crmd : Crmd
  prmd : Prmd
  ecfg : Ecfg
  estat : Estat
  /-- 0x6 ERA (R37) -/
  era : Word
  /-- 0x7 BADV (R38) -/
  badv : Word
  /-- 0xC EENTRY.VA (R39) -/
  eentry : BitVec 26
  tlbidx : TlbIdx
  /-- 0x11 TLBEHI.VPPN (R41) -/
  tlbehi : BitVec 19
  tlbelo0 : TlbElo
  tlbelo1 : TlbElo
  /-- 0x18 ASID.ASID (R43) -/
  asid : BitVec 10
  /-- 0x19 PGDL.Base (R44) -/
  pgdl : BitVec 20
  /-- 0x1A PGDH.Base (R45) -/
  pgdh : BitVec 20
  /-- 0x30 SAVE0 (R48) -/
  save0 : Word
  /-- 0x31 SAVE1 (R48) -/
  save1 : Word
  /-- 0x32 SAVE2 (R48) -/
  save2 : Word
  /-- 0x33 SAVE3 (R48) -/
  save3 : Word
  /-- 0x40 TID (R49) -/
  tid : Word
  tcfg : Tcfg
  /-- 0x60 LLBCTL.KLO (R53) -/
  klo : Bool
  /-- 0x88 TLBREENTRY.PA (R54) -/
  tlbreentry : BitVec 26
  dmw0 : Dmw
  dmw1 : Dmw
deriving DecidableEq, Repr

/-- One half, even or odd, of a TLB entry (R60). -/
structure TlbPage where
  v : Bool
  d : Bool
  mat : BitVec 2
  plv : BitVec 2
  ppn : BitVec 20
deriving DecidableEq, Repr

/-- A TLB entry (R60). -/
structure TlbEntry where
  /-- the entry exists -/
  e : Bool
  asid : BitVec 10
  g : Bool
  ps : BitVec 6
  vppn : BitVec 19
  page0 : TlbPage
  page1 : TlbPage
deriving DecidableEq, Repr

/-- What the environment does at one instruction boundary: all that `70_reset_and_hazards.md` R475
lets it do (assumption log 3). -/
structure EnvInput where
  /-- how many ticks of the counting clock pass (`44_barrier_system_time.md` R323) -/
  ticks : Nat
  /-- the levels of HWI7..HWI0 from now on -/
  hwi : BitVec 8
  /-- the level of the IPI line from now on -/
  ipi : Bool
  /-- reset is asserted -/
  reset : Bool
deriving DecidableEq, Repr

/-- The machine's state (R70). -/
structure State where
  /-- general registers (R20); entry 0 is never read -/
  gpr : Vector Word 32
  /-- address of the instruction being executed (R24) -/
  pc : Word
  /-- LLbit (R29) -/
  llbit : Bool
  csr : Csrs
  /-- timer_cnt (R61), its `TIMER_BITS` low bits -/
  timerCnt : Word
  /-- timer_running (R61) -/
  timerRunning : Bool
  /-- the TLB (R60); its length is `TLB_ENTRIES` -/
  tlb : List TlbEntry
  /-- the Stable Counter (R62) -/
  stableCounter : BitVec 64
  /-- idle_wait (`45_privileged.md` R365) -/
  idleWait : Bool
  /-- levels of the lines HWI7..HWI0, mirrored by ESTAT.IS[9:2] (R63) -/
  hwi : BitVec 8
  /-- level of the IPI line, mirrored by ESTAT.IS[12] (R63) -/
  ipi : Bool
  /-- physical memory (`20_memory.md` R80), in the canonical form of Machine/Memory.lean -/
  mem : List Host.Cell
  /-- the model's own: what the environment will do, one entry a step (log 3) -/
  inputs : List EnvInput
  /-- the model's own: how many free values have been drawn (log 6) -/
  draws : Nat
  /-- the model's own: the open parameters (log 4); no step changes them -/
  params : Params
deriving DecidableEq, Repr

/-- The model-level fault: not an architectural exception. -/
inductive Fault where
  /-- Raised by a fetch, a load or a store whose physical address the platform does not back
  (`93_implementation_defined.md` U10). Safe: the spec gives the access no effect. -/
  | busError
deriving DecidableEq, Repr

/-- Why the model has no next state for a step. Each is safe: the spec gives no effect there. -/
inductive Refusal where
  /-- Raised by `exec` for an instruction whose meaning is not written. Safe. -/
  | notModelled (mnemonic : String)
  /-- Raised by a translation or a TLBSRCH that several TLB entries match
  (`93_implementation_defined.md` U1). Safe. -/
  | tlbMultipleHit
  /-- Raised by TLBWR and TLBFILL of a valid entry with a page size outside `LEGAL_PS` (U2). Safe. -/
  | tlbIllegalPageSize
  /-- Raised by the first translation while CRMD.DA = CRMD.PG (U3). Safe. -/
  | translationModeUndefined
  /-- Raised by TLBRD and TLBWR when TLBIDX.Index is not below `TLB_ENTRIES` (U5). Safe. -/
  | tlbIndexOutOfRange
  /-- Raised by a fetch, a load or a store at a physical address of a platform device, to which the
  spec gives no behaviour (`20_memory.md` R95). Safe. -/
  | deviceAccess
deriving DecidableEq, Repr

/-- A TLBELO of zeros (log 1). -/
def Csrs.zeroElo : TlbElo := { v := false, d := false, plv := 0, mat := 0, g := false, ppn := 0 }

/-- A window that no access hits; PSEG, VSEG and MAT by log 1. -/
def Csrs.zeroDmw : Dmw := { plv0 := false, plv3 := false, mat := 0, pseg := 0, vseg := 0 }

/-- The CSRs after reset (R70, `70_reset_and_hazards.md` R461). The fields the spec leaves
unspecified are 0: DESIGN CHOICE, unsafe (log 1). -/
def Csrs.reset (coreId : BitVec 9) : Csrs where
  crmd := { plv := 0, ie := false, da := true, pg := false, datf := 0, datm := 0 }
  prmd := { pplv := 0, pie := false }
  ecfg := { lieLow := 0, lieHigh := 0 }
  estat := { swi := 0, ti := false, ecode := 0, esubcode := 0 }
  era := 0
  badv := 0
  eentry := 0
  tlbidx := { index := 0, ps := 0, ne := false }
  tlbehi := 0
  tlbelo0 := Csrs.zeroElo
  tlbelo1 := Csrs.zeroElo
  asid := 0
  pgdl := 0
  pgdh := 0
  save0 := 0
  save1 := 0
  save2 := 0
  save3 := 0
  tid := coreId.setWidth 32
  tcfg := { en := false, periodic := false, initVal := 0 }
  klo := false
  tlbreentry := 0
  dmw0 := Csrs.zeroDmw
  dmw1 := Csrs.zeroDmw

/-- A TLB entry of zeros, which does not exist. DESIGN CHOICE, unsafe (log 2). -/
def TlbEntry.empty : TlbEntry where
  e := false
  asid := 0
  g := false
  ps := 0
  vppn := 0
  page0 := { v := false, d := false, mat := 0, plv := 0, ppn := 0 }
  page1 := { v := false, d := false, mat := 0, plv := 0, ppn := 0 }

/-- The machine right after reset (R70, R461). What the spec leaves unspecified: logs 1, 2, 5; the
model's own fields: logs 3, 4, 6. -/
def State.reset : State where
  gpr := Vector.replicate 32 0
  pc := Config.resetPc
  llbit := false
  csr := Csrs.reset Params.suggested.coreId
  timerCnt := 0
  timerRunning := false
  tlb := List.replicate Config.resetTlbEntries TlbEntry.empty
  stableCounter := 0
  idleWait := false
  hwi := 0
  ipi := false
  mem := []
  inputs := []
  draws := 0
  params := Params.suggested

end Sys2Proof.Machine
end

