-- ==== Sys2Proof/Machine/Memory.lean ====
section
/-! DEFINITION. Physical memory as a list of cells in one canonical form (`20_memory.md` R80, R82),
and the platform's map (R95). Addresses strictly rise, lie below 2^32 (PALEN = 32, D3), and no cell
holds what an unlisted address reads as. -/

namespace Sys2Proof.Machine

/-- What a byte of memory that no cell lists reads as. DESIGN CHOICE, unsafe (assumption log 5). -/
def Memory.unlisted : Byte := 0#8

/-- The canonical form. -/
abbrev Memory.wf (m : List Host.Cell) : Prop :=
  m.Pairwise (fun a b => a.1 < b.1) ∧ ∀ c ∈ m, c.2 ≠ Memory.unlisted ∧ c.1 < 2 ^ 32

/-- The byte at an address. -/
def Memory.readNat : List Host.Cell → Nat → Byte
  | [], _ => Memory.unlisted
  | (k, v) :: rest, a => if k = a then v else Memory.readNat rest a

/-- A list of rising addresses with one more cell in its place. -/
def Memory.insert : List Host.Cell → Nat → Byte → List Host.Cell
  | [], a, b => [(a, b)]
  | (k, v) :: rest, a, b =>
    if a < k then (a, b) :: (k, v) :: rest else (k, v) :: Memory.insert rest a b

/-- Memory with one byte written: the old cell of the address goes, and a new one stands in its
place unless it would hold what an unlisted address reads as. -/
def Memory.writeNat (m : List Host.Cell) (a : Nat) (b : Byte) : List Host.Cell :=
  let others := m.filter (fun c => c.1 != a)
  if b = Memory.unlisted then others else Memory.insert others a b

/-- The byte at a physical address. -/
def Memory.readByte (m : List Host.Cell) (pa : Word) : Byte := Memory.readNat m pa.toNat

/-- The halfword at a physical address, little-endian (R82). -/
def Memory.readHalf (m : List Host.Cell) (pa : Word) : Half :=
  Memory.readByte m (pa + 1#32) ++ Memory.readByte m pa

/-- The word at a physical address, little-endian (R82). -/
def Memory.readWord (m : List Host.Cell) (pa : Word) : Word :=
  Memory.readByte m (pa + 3#32) ++ Memory.readByte m (pa + 2#32) ++ Memory.readByte m (pa + 1#32) ++
    Memory.readByte m pa

/-- Memory with some bytes written from an address upwards, the first at the lowest. -/
def Memory.writeBytes (m : List Host.Cell) (pa : Word) : List Byte → List Host.Cell
  | [] => m
  | b :: rest => Memory.writeBytes (Memory.writeNat m pa.toNat b) (pa + 1#32) rest

/-- The bytes of a halfword, lowest address first (R82). -/
def halfBytes (h : Half) : List Byte := [h.extractLsb' 0 8, h.extractLsb' 8 8]

/-- What the platform puts at a physical address (R95): the first range that holds it; none, absent. -/
def regionAt (p : Params) (pa : Word) : Option RegionKind :=
  match p.physMap.find? (fun r => decide (r.base ≤ pa.toNat) && decide (pa.toNat < r.base + r.size)) with
  | some r => some r.kind
  | none => none

end Sys2Proof.Machine
end

