-- ==== Sys2Proof/Machine/Ops.lean ====
section
/-! DEFINITION. The operations that the meanings share: registers and the pc (`10_state.md` R20 to
R26), what an instruction's attempt comes to, and taking a trap and returning from one
(`60_exceptions.md` R400 to R427, `45_privileged.md` R360). -/

namespace Sys2Proof.Machine

/-! Registers. -/

/-- x[r]; register 0 reads 0 (R20). -/
def State.reg (s : State) (r : Reg) : Word := if r = 0#5 then 0#32 else s.gpr[r.toNat]'r.isLt

/-- x[r] <- v; a write to register 0 is discarded (R20, R22). -/
def State.setReg (s : State) (r : Reg) (v : Word) : State :=
  { s with gpr := if r = 0#5 then s.gpr else s.gpr.set r.toNat v r.isLt }

/-- pc <- t. -/
def State.setPc (s : State) (t : Word) : State := { s with pc := t }

/-- pc <- pc + 4, modulo 2^32 (R26). -/
def State.advance (s : State) : State := s.setPc (s.pc + 4#32)

/-- The byte of physical memory that a program's store and load meet. -/
def State.byteAt (s : State) (pa : Word) : Byte := Memory.readByte s.mem pa

/-- Memory with some bytes stored from a physical address upwards. -/
def State.storeBytes (s : State) (pa : Word) (bytes : List Byte) : State :=
  { s with mem := Memory.writeBytes s.mem pa bytes }

/-! Traps. -/

/-- The traps of R400; the ones that record an address carry it. -/
inductive Trap where
  /-- interrupt, Ecode 0x0 -/
  | int
  /-- page invalid for load, 0x1 -/
  | pil (va : Word)
  /-- page invalid for store, 0x2 -/
  | pis (va : Word)
  /-- page invalid for fetch, 0x3 -/
  | pif (va : Word)
  /-- page modification, 0x4 -/
  | pme (va : Word)
  /-- page privilege, 0x7 -/
  | ppi (va : Word)
  /-- fetch address error, 0x8, EsubCode 0 -/
  | adef (va : Word)
  /-- memory-instruction address error, 0x8, EsubCode 1 -/
  | adem (va : Word)
  /-- address not aligned, 0x9 -/
  | ale (va : Word)
  /-- system call, 0xB -/
  | sys
  /-- breakpoint, 0xC -/
  | brk
  /-- instruction does not exist, 0xD -/
  | ine
  /-- instruction privilege error, 0xE -/
  | ipe
  /-- floating point disabled, 0xF: never raised (R412) -/
  | fpd
  /-- floating-point arithmetic, 0x12: never raised (R412) -/
  | fpe
  /-- TLB refill, 0x3F -/
  | tlbr (va : Word)
deriving DecidableEq, Repr

/-- The Ecode column of R400. -/
def Trap.ecode : Trap → BitVec 6
  | .int => 0x0#6
  | .pil _ => 0x1#6
  | .pis _ => 0x2#6
  | .pif _ => 0x3#6
  | .pme _ => 0x4#6
  | .ppi _ => 0x7#6
  | .adef _ => 0x8#6
  | .adem _ => 0x8#6
  | .ale _ => 0x9#6
  | .sys => 0xB#6
  | .brk => 0xC#6
  | .ine => 0xD#6
  | .ipe => 0xE#6
  | .fpd => 0xF#6
  | .fpe => 0x12#6
  | .tlbr _ => 0x3F#6

/-- The EsubCode column of R400: ADEM alone has one that is not 0 (R405). -/
def Trap.esubcode : Trap → BitVec 9
  | .adem _ => 1#9
  | _ => 0#9

/-- The address a trap records in BADV (R421). -/
def Trap.badAddress : Trap → Option Word
  | .pil va => some va
  | .pis va => some va
  | .pif va => some va
  | .pme va => some va
  | .ppi va => some va
  | .adef va => some va
  | .adem va => some va
  | .ale va => some va
  | .tlbr va => some va
  | _ => none

/-- The address whose bits 31:13 a trap records in TLBEHI.VPPN (R422). -/
def Trap.pageAddress : Trap → Option Word
  | .pil va => some va
  | .pis va => some va
  | .pif va => some va
  | .pme va => some va
  | .ppi va => some va
  | .tlbr va => some va
  | _ => none

/-- TLB refill has its own entry and mode change (R413, R423). -/
def Trap.isRefill : Trap → Bool
  | .tlbr _ => true
  | _ => false

/-- The address of the handler (R425). -/
def trapTarget (t : Trap) (c : Csrs) : Word :=
  if t.isRefill then c.tlbreentry ++ 0#6 else c.eentry ++ 0#6

/-- What TrapEntry makes of the CSRs (R420 to R424). -/
def trapCsrs (t : Trap) (epc : Word) (c : Csrs) : Csrs :=
  { c with
    prmd := { pplv := c.crmd.plv, pie := c.crmd.ie }
    crmd :=
      { c.crmd with
        plv := 0#2
        ie := false
        da := t.isRefill || c.crmd.da
        pg := !t.isRefill && c.crmd.pg }
    era := epc
    estat := { c.estat with ecode := t.ecode, esubcode := t.esubcode }
    badv := match t.badAddress with
      | some va => va
      | none => c.badv
    tlbehi := match t.pageAddress with
      | some va => va.extractLsb' 13 19
      | none => c.tlbehi }

/-- TrapEntry(ecode, esub, epc, badv) of R420. -/
def trapEntry (t : Trap) (epc : Word) (s : State) : State :=
  { s with csr := trapCsrs t epc s.csr, pc := trapTarget t s.csr }

/-- What ERTN makes of the CSRs (`45_privileged.md` R360). -/
def returnCsrs (c : Csrs) : Csrs :=
  { c with
    crmd :=
      { c.crmd with
        plv := c.prmd.pplv
        ie := c.prmd.pie
        da := if c.estat.ecode = 0x3F#6 then false else c.crmd.da
        pg := if c.estat.ecode = 0x3F#6 then true else c.crmd.pg }
    klo := false }

/-- The return from a trap (R360, R426). -/
def trapReturn (s : State) : State :=
  { s with
    csr := returnCsrs s.csr
    llbit := s.csr.klo && s.llbit
    pc := s.csr.era }

/-! What the attempt to do something comes to. -/

/-- A value, an architectural trap, a model-level fault, or no meaning. -/
inductive Attempt (α : Type) where
  | done (a : α)
  | trap (t : Trap)
  | fault (f : Fault)
  | refuse (r : Refusal)
deriving DecidableEq, Repr

/-- One attempt after another; the first that does not succeed ends the whole. -/
def Attempt.bind {α β : Type} (x : Attempt α) (f : α → Attempt β) : Attempt β :=
  match x with
  | .done a => f a
  | .trap t => .trap t
  | .fault e => .fault e
  | .refuse r => .refuse r

/-- The outcome of an instruction at `s`: a trap abandons it with no effect of its own and enters the
handler with ERA = its pc (`00_scope.md` R15, `60_exceptions.md` R424). -/
def Attempt.outcome (x : Attempt State) (s : State) : Host.Outcome State Fault Refusal :=
  match x with
  | .done s' => .next s'
  | .trap t => .next (trapEntry t s.pc s)
  | .fault e => .fault e
  | .refuse r => .refused r

/-- A raised exception as the whole effect of an instruction (R15). -/
def raise (t : Trap) (s : State) : Host.Outcome State Fault Refusal := .next (trapEntry t s.pc s)

/-- The check that begins every privileged instruction (`45_privileged.md` R370, U4): PLV 1, 2 and 3
are unprivileged. -/
def privileged (s : State) (body : Attempt State) : Host.Outcome State Fault Refusal :=
  if s.csr.crmd.plv = 0#2 then body.outcome s else raise .ipe s

/-- x[rd] <- v, then pc <- pc + 4: the end of an instruction that computes a register (R13). -/
def writeNext (rd : Reg) (v : Word) (s : State) : State := (s.setReg rd v).advance

end Sys2Proof.Machine
end

