-- ==== Sys2Proof/Machine/Operands.lean ====
section
/-! DEFINITION. Operand forms (`00_scope.md` R11, `30_encoding.md` R144): what the fields of an
instruction denote, and the addresses formed from them. -/

namespace Sys2Proof.Machine

/-- sext_32(v) (R11). -/
def sext32 {w : Nat} (v : BitVec w) : Word := v.signExtend 32

/-- zext_32(v) (R11). -/
def zext32 {w : Nat} (v : BitVec w) : Word := v.setWidth 32

/-- {si20, 12'b0}: the operand of LU12I.W and PCADDU12I (`40_integer.md` R223, R224). -/
def upperImmediate (si20 : BitVec 20) : Word := si20 ++ 0#12

/-- The shift count of a register: its low five bits (`40_integer.md` R217). -/
def shiftCount (v : Word) : Nat := (v.extractLsb' 0 5).toNat

/-- sext_32({offs, 2'b0}): a branch offset in bytes (`42_branch_jump.md` R260 c). -/
def byteOffset {w : Nat} (offs : BitVec w) : Word := sext32 (offs ++ 0#2)

/-- The target of a pc-relative transfer, relative to the transfer itself (R260 b, d). -/
def branchTarget {w : Nat} (offs : BitVec w) (s : State) : Word := s.pc + byteOffset offs

/-- x[rj] + sext_32(si12): the address of LD.* and ST.* (`43_load_store.md` R280). -/
def dataAddress (rj : Reg) (si12 : BitVec 12) (s : State) : Word := s.reg rj + sext32 si12

/-- x[rj] + sext_32({si14, 2'b0}): the address of LL.W and SC.W (R280). -/
def linkAddress (rj : Reg) (si14 : BitVec 14) (s : State) : Word := s.reg rj + sext32 (si14 ++ 0#2)

end Sys2Proof.Machine
end

