-- ==== Sys2Proof/Machine/Flags.lean ====
section
/-! DEFINITION. LA32R has no flags and no condition codes (`10_state.md` R28): a comparison is a truth
value, delivered as 0 or 1 or folded into a branch. -/

namespace Sys2Proof.Machine

/-- a <s b (`00_scope.md` R12). -/
def lessSigned (a b : Word) : Bool := decide (a.toInt < b.toInt)

/-- a <u b (R12). -/
def lessUnsigned (a b : Word) : Bool := decide (a.toNat < b.toNat)

/-- A truth value in a register: 1 or 0 (`40_integer.md` R204). -/
def truthWord (b : Bool) : Word := if b then 1#32 else 0#32

/-- pc <- the target when the condition holds, else pc <- pc + 4 (`42_branch_jump.md` R260 e). -/
def branchIf {w : Nat} (c : Bool) (offs : BitVec w) (s : State) : State :=
  if c then s.setPc (branchTarget offs s) else s.advance

end Sys2Proof.Machine
end

