-- ==== Sys2Proof/Machine/Branch.lean ====
section
/-! DEFINITION. Branches, jumps and calls (`42_branch_jump.md` R260 to R271). No delay slot; a bad
target shows at the next fetch (R271). -/

namespace Sys2Proof.Machine

/-- BEQ (R261) -/
def execBeq (rj rd : Reg) (offs16 : BitVec 16) (s : State) : Host.Outcome State Fault Refusal :=
  .next (branchIf (s.reg rj == s.reg rd) offs16 s)

/-- BNE (R262) -/
def execBne (rj rd : Reg) (offs16 : BitVec 16) (s : State) : Host.Outcome State Fault Refusal :=
  .next (branchIf (s.reg rj != s.reg rd) offs16 s)

/-- BLT (R263) -/
def execBlt (rj rd : Reg) (offs16 : BitVec 16) (s : State) : Host.Outcome State Fault Refusal :=
  .next (branchIf (lessSigned (s.reg rj) (s.reg rd)) offs16 s)

/-- BGE (R264) -/
def execBge (rj rd : Reg) (offs16 : BitVec 16) (s : State) : Host.Outcome State Fault Refusal :=
  .next (branchIf (!lessSigned (s.reg rj) (s.reg rd)) offs16 s)

/-- BLTU (R265) -/
def execBltu (rj rd : Reg) (offs16 : BitVec 16) (s : State) : Host.Outcome State Fault Refusal :=
  .next (branchIf (lessUnsigned (s.reg rj) (s.reg rd)) offs16 s)

/-- BGEU (R266) -/
def execBgeu (rj rd : Reg) (offs16 : BitVec 16) (s : State) : Host.Outcome State Fault Refusal :=
  .next (branchIf (!lessUnsigned (s.reg rj) (s.reg rd)) offs16 s)

/-- B (R267) -/
def execB (offs26 : BitVec 26) (s : State) : Host.Outcome State Fault Refusal :=
  .next (s.setPc (branchTarget offs26 s))

/-- BL (R268): the link register is r1. -/
def execBl (offs26 : BitVec 26) (s : State) : Host.Outcome State Fault Refusal :=
  .next ((s.setReg 1#5 (s.pc + 4#32)).setPc (branchTarget offs26 s))

/-- JIRL (R269): the target uses x[rj] from before the link is written; its low bits stay. -/
def execJirl (rd rj : Reg) (offs16 : BitVec 16) (s : State) : Host.Outcome State Fault Refusal :=
  .next ((s.setReg rd (s.pc + 4#32)).setPc (s.reg rj + byteOffset offs16))

end Sys2Proof.Machine
end

