-- ==== Sys2Proof/Machine/Integer.lean ====
section
/-! DEFINITION. Integer arithmetic, comparison, logic, shifts, immediate load and pc-relative address
(`40_integer.md` R200 to R224). Each reads its sources from the state before it (R200). -/

namespace Sys2Proof.Machine

/-- ADD.W (R201) -/
def execAddW (rd rj rk : Reg) (s : State) : Host.Outcome State Fault Refusal :=
  .next (writeNext rd (s.reg rj + s.reg rk) s)

/-- SUB.W (R202) -/
def execSubW (rd rj rk : Reg) (s : State) : Host.Outcome State Fault Refusal :=
  .next (writeNext rd (s.reg rj - s.reg rk) s)

/-- ADDI.W (R203) -/
def execAddiW (rd rj : Reg) (si12 : BitVec 12) (s : State) : Host.Outcome State Fault Refusal :=
  .next (writeNext rd (s.reg rj + sext32 si12) s)

/-- SLT (R204) -/
def execSlt (rd rj rk : Reg) (s : State) : Host.Outcome State Fault Refusal :=
  .next (writeNext rd (truthWord (lessSigned (s.reg rj) (s.reg rk))) s)

/-- SLTU (R205) -/
def execSltu (rd rj rk : Reg) (s : State) : Host.Outcome State Fault Refusal :=
  .next (writeNext rd (truthWord (lessUnsigned (s.reg rj) (s.reg rk))) s)

/-- SLTI (R206) -/
def execSlti (rd rj : Reg) (si12 : BitVec 12) (s : State) : Host.Outcome State Fault Refusal :=
  .next (writeNext rd (truthWord (lessSigned (s.reg rj) (sext32 si12))) s)

/-- SLTUI (R207): the immediate is sign-extended, then compared as unsigned. -/
def execSltui (rd rj : Reg) (si12 : BitVec 12) (s : State) : Host.Outcome State Fault Refusal :=
  .next (writeNext rd (truthWord (lessUnsigned (s.reg rj) (sext32 si12))) s)

/-- AND (R208) -/
def execAnd (rd rj rk : Reg) (s : State) : Host.Outcome State Fault Refusal :=
  .next (writeNext rd (s.reg rj &&& s.reg rk) s)

/-- OR (R209) -/
def execOr (rd rj rk : Reg) (s : State) : Host.Outcome State Fault Refusal :=
  .next (writeNext rd (s.reg rj ||| s.reg rk) s)

/-- NOR (R210) -/
def execNor (rd rj rk : Reg) (s : State) : Host.Outcome State Fault Refusal :=
  .next (writeNext rd (~~~(s.reg rj ||| s.reg rk)) s)

/-- XOR (R211) -/
def execXor (rd rj rk : Reg) (s : State) : Host.Outcome State Fault Refusal :=
  .next (writeNext rd (s.reg rj ^^^ s.reg rk) s)

/-- ANDN (R212): rk is complemented. -/
def execAndn (rd rj rk : Reg) (s : State) : Host.Outcome State Fault Refusal :=
  .next (writeNext rd (s.reg rj &&& ~~~(s.reg rk)) s)

/-- ORN (R213): rk is complemented. -/
def execOrn (rd rj rk : Reg) (s : State) : Host.Outcome State Fault Refusal :=
  .next (writeNext rd (s.reg rj ||| ~~~(s.reg rk)) s)

/-- ANDI (R214) -/
def execAndi (rd rj : Reg) (ui12 : BitVec 12) (s : State) : Host.Outcome State Fault Refusal :=
  .next (writeNext rd (s.reg rj &&& zext32 ui12) s)

/-- ORI (R215) -/
def execOri (rd rj : Reg) (ui12 : BitVec 12) (s : State) : Host.Outcome State Fault Refusal :=
  .next (writeNext rd (s.reg rj ||| zext32 ui12) s)

/-- XORI (R216) -/
def execXori (rd rj : Reg) (ui12 : BitVec 12) (s : State) : Host.Outcome State Fault Refusal :=
  .next (writeNext rd (s.reg rj ^^^ zext32 ui12) s)

/-- SLL.W (R217) -/
def execSllW (rd rj rk : Reg) (s : State) : Host.Outcome State Fault Refusal :=
  .next (writeNext rd (s.reg rj <<< shiftCount (s.reg rk)) s)

/-- SRL.W (R218) -/
def execSrlW (rd rj rk : Reg) (s : State) : Host.Outcome State Fault Refusal :=
  .next (writeNext rd (s.reg rj >>> shiftCount (s.reg rk)) s)

/-- SRA.W (R219) -/
def execSraW (rd rj rk : Reg) (s : State) : Host.Outcome State Fault Refusal :=
  .next (writeNext rd ((s.reg rj).sshiftRight (shiftCount (s.reg rk))) s)

/-- SLLI.W (R220) -/
def execSlliW (rd rj : Reg) (ui5 : BitVec 5) (s : State) : Host.Outcome State Fault Refusal :=
  .next (writeNext rd (s.reg rj <<< ui5.toNat) s)

/-- SRLI.W (R221) -/
def execSrliW (rd rj : Reg) (ui5 : BitVec 5) (s : State) : Host.Outcome State Fault Refusal :=
  .next (writeNext rd (s.reg rj >>> ui5.toNat) s)

/-- SRAI.W (R222) -/
def execSraiW (rd rj : Reg) (ui5 : BitVec 5) (s : State) : Host.Outcome State Fault Refusal :=
  .next (writeNext rd ((s.reg rj).sshiftRight ui5.toNat) s)

/-- LU12I.W (R223) -/
def execLu12iW (rd : Reg) (si20 : BitVec 20) (s : State) : Host.Outcome State Fault Refusal :=
  .next (writeNext rd (upperImmediate si20) s)

/-- PCADDU12I (R224): relative to its own address. -/
def execPcaddu12i (rd : Reg) (si20 : BitVec 20) (s : State) : Host.Outcome State Fault Refusal :=
  .next (writeNext rd (s.pc + upperImmediate si20) s)

end Sys2Proof.Machine
end

