-- ==== Sys2Proof/Machine/Tlb.lean ====
section
/-! DEFINITION. The TLB (`10_state.md` R60): which entries match an address (`20_memory.md` R104), and
what the TLB instructions read, write and clear (`45_privileged.md` R344 to R350). -/

namespace Sys2Proof.Machine

/-- The entry's pair of pages holds the address: VPPN[31:PS+1] = va[31:PS+1] (R104). A page size that
a VPPN cannot express matches nothing (assumption log 24). -/
def TlbEntry.covers (t : TlbEntry) (va : Word) : Bool :=
  decide (12 ≤ t.ps.toNat) && decide (t.ps.toNat ≤ 30) &&
    decide (t.vppn.toNat >>> (t.ps.toNat - 12) = va.toNat >>> (t.ps.toNat + 1))

/-- The entry exists, is global or of the address space, and holds the address (R104). -/
def TlbEntry.hits (t : TlbEntry) (asid : BitVec 10) (va : Word) : Bool :=
  t.e && (t.g || t.asid == asid) && t.covers va

/-- What a search of the whole TLB finds. -/
inductive TlbSearch where
  | miss
  | hit (index : Nat) (t : TlbEntry)
  /-- several entries match (`93_implementation_defined.md` U1) -/
  | several
deriving DecidableEq, Repr

/-- The entries that match, with their indices, from some index on. -/
def tlbHitsFrom (asid : BitVec 10) (va : Word) : Nat → List TlbEntry → List (Nat × TlbEntry)
  | _, [] => []
  | i, t :: rest =>
    if t.hits asid va then (i, t) :: tlbHitsFrom asid va (i + 1) rest
    else tlbHitsFrom asid va (i + 1) rest

/-- The search that a translation and TLBSRCH make (R104, R344). -/
def tlbSearch (asid : BitVec 10) (va : Word) (tlb : List TlbEntry) : TlbSearch :=
  match tlbHitsFrom asid va 0 tlb with
  | [] => .miss
  | [(i, t)] => .hit i t
  | _ => .several

/-- The half of the pair that an address selects, by va[PS] (R104). -/
def TlbEntry.page (t : TlbEntry) (va : Word) : TlbPage :=
  if va.getLsbD t.ps.toNat then t.page1 else t.page0

/-- {PPN[PALEN-1:PS], va[PS-1:0]} (R105). -/
def TlbEntry.physical (t : TlbEntry) (va : Word) : Word :=
  (((t.page va).ppn.setWidth 32 >>> (t.ps.toNat - 12)) <<< t.ps.toNat) |||
    (va &&& BitVec.ofNat 32 (2 ^ t.ps.toNat - 1))

/-- The even or odd half of an entry as TLBELO0 or TLBELO1 (R345). -/
def TlbPage.toElo (p : TlbPage) (g : Bool) : TlbElo where
  v := p.v
  d := p.d
  plv := p.plv
  mat := p.mat
  g := g
  ppn := p.ppn

/-- TLBELO0 or TLBELO1 as the even or odd half of an entry (R348). -/
def TlbElo.toPage (t : TlbElo) : TlbPage where
  v := t.v
  d := t.d
  mat := t.mat
  plv := t.plv
  ppn := t.ppn

/-- Whether TlbWriteEntry writes a valid entry (R348). -/
def writesValid (s : State) : Bool :=
  !s.csr.tlbidx.ne || (s.params.tlbwrRefillForcesValid && s.csr.estat.ecode == 0x3F#6)

/-- The entry that TlbWriteEntry writes (R348). -/
def entryFromCsrs (s : State) : TlbEntry where
  e := writesValid s
  asid := s.csr.asid
  g := s.csr.tlbelo0.g && s.csr.tlbelo1.g
  ps := s.csr.tlbidx.ps
  vppn := s.csr.tlbehi
  page0 := s.csr.tlbelo0.toPage
  page1 := s.csr.tlbelo1.toPage

/-- A valid entry may hold this page size (`00_scope.md` R8 `LEGAL_PS`). -/
def legalPageSize (p : Params) (ps : BitVec 6) : Bool := p.legalPs.contains ps.toNat

/-- TlbWriteEntry(i) (R348). Index out of range: U5. A valid entry with an illegal page size: U2; an
invalid one takes any page size, which nothing can observe (log 11). -/
def tlbWriteEntry (i : Nat) (s : State) : Attempt State :=
  if s.tlb.length ≤ i then .refuse .tlbIndexOutOfRange
  else if writesValid s && !legalPageSize s.params s.csr.tlbidx.ps then .refuse .tlbIllegalPageSize
  else .done { s with tlb := s.tlb.set i (entryFromCsrs s) }

/-- The TLB interface CSRs after TLBRD of an entry (R345). -/
def readEntryCsrs (clears : Bool) (t : TlbEntry) (c : Csrs) : Csrs :=
  if t.e then
    { c with
      tlbidx := { c.tlbidx with ne := false, ps := t.ps }
      tlbehi := t.vppn
      tlbelo0 := t.page0.toElo t.g
      tlbelo1 := t.page1.toElo t.g
      asid := t.asid }
  else if clears then
    { c with
      tlbidx := { c.tlbidx with ne := true, ps := 0#6 }
      tlbehi := 0#19
      tlbelo0 := Csrs.zeroElo
      tlbelo1 := Csrs.zeroElo }
  else { c with tlbidx := { c.tlbidx with ne := true } }

/-- TLBIDX after TLBSRCH (R344): a miss leaves Index and PS. -/
def searchedIdx (r : TlbSearch) (t : TlbIdx) : Attempt TlbIdx :=
  match r with
  | .miss => .done { t with ne := true }
  | .hit i _ => .done { t with index := BitVec.ofNat 16 i, ne := false }
  | .several => .refuse .tlbMultipleHit

/-- cond_op(i) of INVTLB (R350), for an op of 0 to 6. -/
def invtlbSelects (op : BitVec 5) (asid : BitVec 10) (va : Word) (t : TlbEntry) : Bool :=
  if op = 0#5 then true
  else if op = 1#5 then true
  else if op = 2#5 then t.g
  else if op = 3#5 then !t.g
  else if op = 4#5 then !t.g && t.asid == asid
  else if op = 5#5 then !t.g && t.asid == asid && t.covers va
  else (t.g || t.asid == asid) && t.covers va

/-- The TLB after INVTLB: the selected entries cease to exist, nothing else changes (R350). -/
def invalidate (op : BitVec 5) (asid : BitVec 10) (va : Word) (tlb : List TlbEntry) : List TlbEntry :=
  tlb.map (fun t => if invtlbSelects op asid va t then { t with e := false } else t)

end Sys2Proof.Machine
end

