-- ==== Sys2Proof/Machine/Translate.lean ====
section
/-! DEFINITION. Address translation and protection (`20_memory.md` R100 to R106), and the access to
what the platform puts at the physical address (R95). -/

namespace Sys2Proof.Machine

/-- The kind of an access (R100). -/
inductive AccessKind where
  | fetch
  | load
  | store
deriving DecidableEq, Repr

/-- What a translation gives: the physical address and the memory access type, which has no effect in
this cacheless hardware (R88, assumption log 27). -/
structure Translated where
  pa : Word
  mat : BitVec 2
deriving DecidableEq, Repr

/-- Window `d` may be used at this level: its PLV0 or PLV3 bit; levels 1 and 2 have none (R102). -/
def Dmw.enabled (d : Dmw) (plv : BitVec 2) : Bool :=
  (plv == 0#2 && d.plv0) || (plv == 3#2 && d.plv3)

/-- Window `d` maps the address (R102). -/
def Dmw.maps (d : Dmw) (plv : BitVec 2) (va : Word) : Bool :=
  d.enabled plv && va.extractLsb' 29 3 == d.vseg

/-- What window `d` makes of the address (R102). -/
def Dmw.translated (d : Dmw) (va : Word) : Translated where
  pa := d.pseg ++ va.extractLsb' 0 29
  mat := d.mat

/-- WindowLookup(va, plv) (R102): of two windows that hit, the last, DMW1, counts (D27). -/
def windowLookup (c : Csrs) (va : Word) : Option Translated :=
  if c.dmw1.maps c.crmd.plv va then some (c.dmw1.translated va)
  else if c.dmw0.maps c.crmd.plv va then some (c.dmw0.translated va)
  else none

/-- The page-invalid exception of an access (R105, `60_exceptions.md` R402). -/
def pageInvalid (kind : AccessKind) (va : Word) : Trap :=
  match kind with
  | .fetch => .pif va
  | .load => .pil va
  | .store => .pis va

/-- The checks of R105 on the entry found, in their order, and the physical address. -/
def pageCheck (kind : AccessKind) (va : Word) (plv : BitVec 2) (t : TlbEntry) : Attempt Translated :=
  if (t.page va).v = false then .trap (pageInvalid kind va)
  else if (t.page va).plv < plv then .trap (.ppi va)
  else if kind = .store ∧ (t.page va).d = false then .trap (.pme va)
  else .done { pa := t.physical va, mat := (t.page va).mat }

/-- TlbTranslate(va, kind, plv) (R104, R105). -/
def tlbTranslate (kind : AccessKind) (va : Word) (s : State) : Attempt Translated :=
  match tlbSearch s.csr.asid va s.tlb with
  | .miss => .trap (.tlbr va)
  | .hit _ t => pageCheck kind va s.csr.crmd.plv t
  | .several => .refuse .tlbMultipleHit

/-- The address error of an access (R103). -/
def addressError (kind : AccessKind) (va : Word) : Trap :=
  match kind with
  | .fetch => .adef va
  | .load => .adem va
  | .store => .adem va

/-- Mapped address translation mode (R100, R103): windows first, then the check of the upper half,
then the TLB. -/
def mappedTranslate (kind : AccessKind) (va : Word) (s : State) : Attempt Translated :=
  match windowLookup s.csr va with
  | some r => .done r
  | none =>
    if s.csr.crmd.plv ≠ 0#2 ∧ va.getLsbD 31 = true then .trap (addressError kind va)
    else tlbTranslate kind va s

/-- Direct address translation mode (R101). -/
def directTranslate (kind : AccessKind) (va : Word) (s : State) : Translated where
  pa := va
  mat := if kind = .fetch then s.csr.crmd.datf else s.csr.crmd.datm

/-- Translate(va, kind) (R100). DA = PG: U3. -/
def translate (kind : AccessKind) (va : Word) (s : State) : Attempt Translated :=
  if s.csr.crmd.da = true ∧ s.csr.crmd.pg = false then .done (directTranslate kind va s)
  else if s.csr.crmd.da = false ∧ s.csr.crmd.pg = true then mappedTranslate kind va s
  else .refuse .translationModeUndefined

/-- The platform backs every byte of an access of `n` bytes with memory (R95). An absent byte: U10; a
byte of a device: no behaviour given (log 10, log 26). -/
def checkBacked (p : Params) (pa : Word) : Nat → Attempt Unit
  | 0 => .done ()
  | n + 1 =>
    match regionAt p pa with
    | some .ram => checkBacked p (pa + 1#32) n
    | some .device => .refuse .deviceAccess
    | none => .fault .busError

/-- A data access of `n` bytes at `va` is aligned (R84). -/
def aligned (n : Nat) (va : Word) : Bool := va.toNat % n == 0

/-- Steps (2) to (4) of a data access (`43_load_store.md` R280, `20_memory.md` R86): alignment,
translation, the platform. The physical address, when all succeed. -/
def access (kind : AccessKind) (n : Nat) (va : Word) (s : State) : Attempt Word :=
  if aligned n va then
    (translate kind va s).bind fun r => (checkBacked s.params r.pa n).bind fun _ => .done r.pa
  else .trap (.ale va)

end Sys2Proof.Machine
end

