-- ==== Sys2Proof/Machine/LoadStore.lean ====
section
/-! DEFINITION. Loads, stores, load-linked, store-conditional and prefetch (`43_load_store.md` R280 to
R299). -/

namespace Sys2Proof.Machine

/-- A load of `n` bytes from `va` (R280): x[rd] takes what `value` makes of the bytes at the physical
address. -/
def load (n : Nat) (va : Word) (value : Word → Word) (rd : Reg) (s : State) : Attempt State :=
  (access .load n va s).bind fun pa => .done (writeNext rd (value pa) s)

/-- A store of some bytes to `va` (R280). -/
def store (va : Word) (bytes : List Byte) (s : State) : Attempt State :=
  (access .store bytes.length va s).bind fun pa => .done (s.storeBytes pa bytes).advance

/-- LD.B (R281) -/
def execLdB (rd rj : Reg) (si12 : BitVec 12) (s : State) : Host.Outcome State Fault Refusal :=
  (load 1 (dataAddress rj si12 s) (fun pa => sext32 (Memory.readByte s.mem pa)) rd s).outcome s

/-- LD.H (R282) -/
def execLdH (rd rj : Reg) (si12 : BitVec 12) (s : State) : Host.Outcome State Fault Refusal :=
  (load 2 (dataAddress rj si12 s) (fun pa => sext32 (Memory.readHalf s.mem pa)) rd s).outcome s

/-- LD.W (R283) -/
def execLdW (rd rj : Reg) (si12 : BitVec 12) (s : State) : Host.Outcome State Fault Refusal :=
  (load 4 (dataAddress rj si12 s) (fun pa => Memory.readWord s.mem pa) rd s).outcome s

/-- LD.BU (R284) -/
def execLdBu (rd rj : Reg) (si12 : BitVec 12) (s : State) : Host.Outcome State Fault Refusal :=
  (load 1 (dataAddress rj si12 s) (fun pa => zext32 (Memory.readByte s.mem pa)) rd s).outcome s

/-- LD.HU (R285) -/
def execLdHu (rd rj : Reg) (si12 : BitVec 12) (s : State) : Host.Outcome State Fault Refusal :=
  (load 2 (dataAddress rj si12 s) (fun pa => zext32 (Memory.readHalf s.mem pa)) rd s).outcome s

/-- ST.B (R286) -/
def execStB (rd rj : Reg) (si12 : BitVec 12) (s : State) : Host.Outcome State Fault Refusal :=
  (store (dataAddress rj si12 s) [(s.reg rd).extractLsb' 0 8] s).outcome s

/-- ST.H (R287) -/
def execStH (rd rj : Reg) (si12 : BitVec 12) (s : State) : Host.Outcome State Fault Refusal :=
  (store (dataAddress rj si12 s) (halfBytes ((s.reg rd).extractLsb' 0 16)) s).outcome s

/-- ST.W (R288) -/
def execStW (rd rj : Reg) (si12 : BitVec 12) (s : State) : Host.Outcome State Fault Refusal :=
  (store (dataAddress rj si12 s) (wordBytes (s.reg rd)) s).outcome s

/-- LL.W (R295): LLbit is set when the load completes. -/
def execLlW (rd rj : Reg) (si14 : BitVec 14) (s : State) : Host.Outcome State Fault Refusal :=
  ((load 4 (linkAddress rj si14 s) (fun pa => Memory.readWord s.mem pa) rd s).bind
    fun t => .done { t with llbit := true }).outcome s

/-- What SC.W stores and leaves when LLbit is 1 (R296): the old x[rd] in memory, 1 in x[rd]. -/
def storeConditional (rd : Reg) (va : Word) (s : State) : Attempt State :=
  (access .store 4 va s).bind fun pa =>
    .done { writeNext rd 1#32 (s.storeBytes pa (wordBytes (s.reg rd))) with llbit := false }

/-- SC.W (R296): alignment first, whatever LLbit is; with LLbit = 0 there is no access. -/
def execScW (rd rj : Reg) (si14 : BitVec 14) (s : State) : Host.Outcome State Fault Refusal :=
  if aligned 4 (linkAddress rj si14 s) then
    if s.llbit then (storeConditional rd (linkAddress rj si14 s) s).outcome s
    else .next (writeNext rd 0#32 s)
  else raise (.ale (linkAddress rj si14 s)) s

/-- PRELD (R299): no effect, whatever the hint and the address are. -/
def execPreld (_hint : BitVec 5) (_rj : Reg) (_si12 : BitVec 12) (s : State) :
    Host.Outcome State Fault Refusal :=
  .next s.advance

end Sys2Proof.Machine
end

