-- ==== Sys2Proof/Machine/MulDiv.lean ====
section
/-! DEFINITION. Multiplication and division (`41_muldiv.md` R240 to R250): exact integers, cut to the
bits the rule names. None of them traps (R240). -/

namespace Sys2Proof.Machine

/-- The 64-bit two's-complement product (R242). -/
def productSigned (a b : Word) : BitVec 64 := BitVec.ofInt 64 (a.toInt * b.toInt)

/-- The 64-bit product of unsigned operands (R243). -/
def productUnsigned (a b : Word) : BitVec 64 := BitVec.ofNat 64 (a.toNat * b.toNat)

/-- trunc(signed(a) / signed(b))[31:0] (R244, R250 a, c). -/
def quotientSigned (a b : Word) : Word := BitVec.ofInt 32 (a.toInt.tdiv b.toInt)

/-- (signed(a) - trunc(signed(a) / signed(b)) * signed(b))[31:0] (R245). -/
def remainderSigned (a b : Word) : Word := BitVec.ofInt 32 (a.toInt - a.toInt.tdiv b.toInt * b.toInt)

/-- floor(unsigned(a) / unsigned(b)) (R246). -/
def quotientUnsigned (a b : Word) : Word := BitVec.ofNat 32 (a.toNat / b.toNat)

/-- unsigned(a) mod unsigned(b) (R247). -/
def remainderUnsigned (a b : Word) : Word := BitVec.ofNat 32 (a.toNat % b.toNat)

/-- The end of a division: the result, or for divisor 0 a free value drawn for this execution
(R250 b, U7, assumption log 6). -/
def divideNext (rd : Reg) (divisor result : Word) (s : State) : State :=
  if divisor = 0#32 then
    { writeNext rd (Config.divByZeroResult s.draws) s with draws := s.draws + 1 }
  else writeNext rd result s

/-- MUL.W (R241) -/
def execMulW (rd rj rk : Reg) (s : State) : Host.Outcome State Fault Refusal :=
  .next (writeNext rd ((productSigned (s.reg rj) (s.reg rk)).extractLsb' 0 32) s)

/-- MULH.W (R242) -/
def execMulhW (rd rj rk : Reg) (s : State) : Host.Outcome State Fault Refusal :=
  .next (writeNext rd ((productSigned (s.reg rj) (s.reg rk)).extractLsb' 32 32) s)

/-- MULH.WU (R243) -/
def execMulhWu (rd rj rk : Reg) (s : State) : Host.Outcome State Fault Refusal :=
  .next (writeNext rd ((productUnsigned (s.reg rj) (s.reg rk)).extractLsb' 32 32) s)

/-- DIV.W (R244) -/
def execDivW (rd rj rk : Reg) (s : State) : Host.Outcome State Fault Refusal :=
  .next (divideNext rd (s.reg rk) (quotientSigned (s.reg rj) (s.reg rk)) s)

/-- MOD.W (R245) -/
def execModW (rd rj rk : Reg) (s : State) : Host.Outcome State Fault Refusal :=
  .next (divideNext rd (s.reg rk) (remainderSigned (s.reg rj) (s.reg rk)) s)

/-- DIV.WU (R246) -/
def execDivWu (rd rj rk : Reg) (s : State) : Host.Outcome State Fault Refusal :=
  .next (divideNext rd (s.reg rk) (quotientUnsigned (s.reg rj) (s.reg rk)) s)

/-- MOD.WU (R247) -/
def execModWu (rd rj rk : Reg) (s : State) : Host.Outcome State Fault Refusal :=
  .next (divideNext rd (s.reg rk) (remainderUnsigned (s.reg rj) (s.reg rk)) s)

end Sys2Proof.Machine
end

