-- ==== Sys2Proof/Machine/Csr.lean ====
section
/-! DEFINITION. The CSR space (`10_state.md` R31 to R58): each register as a 32-bit word, and what
CSRRD reads and CSRWR and CSRXCHG write (`45_privileged.md` R330 to R333). -/

namespace Sys2Proof.Machine

/-- The defined CSRs (R31). -/
inductive CsrName where
  | crmd | prmd | euen | ecfg | estat | era | badv | eentry
  | tlbidx | tlbehi | tlbelo0 | tlbelo1 | asid | pgdl | pgdh | pgd | cpuid
  | save0 | save1 | save2 | save3 | tid | tcfg | tval | ticlr | llbctl
  | tlbreentry | ctag | dmw0 | dmw1
deriving DecidableEq, Repr

/-- The number of a CSR (R31). -/
def csrNumber : CsrName → BitVec 14
  | .crmd => 0x0#14
  | .prmd => 0x1#14
  | .euen => 0x2#14
  | .ecfg => 0x4#14
  | .estat => 0x5#14
  | .era => 0x6#14
  | .badv => 0x7#14
  | .eentry => 0xC#14
  | .tlbidx => 0x10#14
  | .tlbehi => 0x11#14
  | .tlbelo0 => 0x12#14
  | .tlbelo1 => 0x13#14
  | .asid => 0x18#14
  | .pgdl => 0x19#14
  | .pgdh => 0x1A#14
  | .pgd => 0x1B#14
  | .cpuid => 0x20#14
  | .save0 => 0x30#14
  | .save1 => 0x31#14
  | .save2 => 0x32#14
  | .save3 => 0x33#14
  | .tid => 0x40#14
  | .tcfg => 0x41#14
  | .tval => 0x42#14
  | .ticlr => 0x44#14
  | .llbctl => 0x60#14
  | .tlbreentry => 0x88#14
  | .ctag => 0x98#14
  | .dmw0 => 0x180#14
  | .dmw1 => 0x181#14

/-- Every defined CSR, in the order of R31. -/
def csrNames : List CsrName :=
  [.crmd, .prmd, .euen, .ecfg, .estat, .era, .badv, .eentry, .tlbidx, .tlbehi, .tlbelo0, .tlbelo1,
    .asid, .pgdl, .pgdh, .pgd, .cpuid, .save0, .save1, .save2, .save3, .tid, .tcfg, .tval, .ticlr,
    .llbctl, .tlbreentry, .ctag, .dmw0, .dmw1]

/-- The CSR of a number; none for an undefined number (R57). -/
def csrNamed (n : BitVec 14) : Option CsrName := csrNames.find? (fun c => csrNumber c == n)

/-- `TLB_IDX_BITS` = ceil(log2(TLB_ENTRIES)) (`00_scope.md` R8). -/
def tlbIdxBits (entries : Nat) : Nat := if entries ≤ 1 then 0 else Nat.log2 (entries - 1) + 1

/-- The low `n` bits of a value; the bits above them are 0. -/
def lowBits {w : Nat} (n : Nat) (v : BitVec w) : BitVec w := v &&& BitVec.ofNat w (2 ^ n - 1)

/-- A flag as one bit of a word. -/
def flagBit (b : Bool) : BitVec 1 := BitVec.ofBool b

/-! Each register as a word, and the fields that a word written to it gives. -/

/-- R32 -/
def Crmd.toWord (c : Crmd) : Word :=
  0#23 ++ c.datm ++ c.datf ++ flagBit c.pg ++ flagBit c.da ++ flagBit c.ie ++ c.plv
/-- R32 -/
def Crmd.ofWord (w : Word) : Crmd where
  plv := w.extractLsb' 0 2
  ie := w.getLsbD 2
  da := w.getLsbD 3
  pg := w.getLsbD 4
  datf := w.extractLsb' 5 2
  datm := w.extractLsb' 7 2

/-- R33 -/
def Prmd.toWord (p : Prmd) : Word := 0#29 ++ flagBit p.pie ++ p.pplv
/-- R33 -/
def Prmd.ofWord (w : Word) : Prmd where
  pplv := w.extractLsb' 0 2
  pie := w.getLsbD 2

/-- LIE[12:0] (R35). -/
def Ecfg.lie (e : Ecfg) : BitVec 13 := e.lieHigh ++ 0#1 ++ e.lieLow
/-- R35 -/
def Ecfg.toWord (e : Ecfg) : Word := 0#19 ++ e.lie
/-- R35 -/
def Ecfg.ofWord (w : Word) : Ecfg where
  lieLow := w.extractLsb' 0 10
  lieHigh := w.extractLsb' 11 2

/-- ESTAT.IS[12:0] (R36, R63): IS[9:2] and IS[12] are the levels of the input lines. -/
def interruptStatus (s : State) : BitVec 13 :=
  flagBit s.ipi ++ flagBit s.csr.estat.ti ++ 0#1 ++ s.hwi ++ s.csr.estat.swi
/-- R36 -/
def estatWord (s : State) : Word :=
  0#1 ++ s.csr.estat.esubcode ++ s.csr.estat.ecode ++ 0#3 ++ interruptStatus s

/-- R40 -/
def TlbIdx.toWord (t : TlbIdx) : Word := flagBit t.ne ++ 0#1 ++ t.ps ++ 0#8 ++ t.index
/-- R40: Index is the low `TLB_IDX_BITS` bits. -/
def TlbIdx.ofWord (idxBits : Nat) (w : Word) : TlbIdx where
  index := lowBits idxBits (w.extractLsb' 0 16)
  ps := w.extractLsb' 24 6
  ne := w.getLsbD 31

/-- R42 -/
def TlbElo.toWord (t : TlbElo) : Word :=
  0#4 ++ t.ppn ++ 0#1 ++ flagBit t.g ++ t.mat ++ t.plv ++ flagBit t.d ++ flagBit t.v
/-- R42 -/
def TlbElo.ofWord (w : Word) : TlbElo where
  v := w.getLsbD 0
  d := w.getLsbD 1
  plv := w.extractLsb' 2 2
  mat := w.extractLsb' 4 2
  g := w.getLsbD 6
  ppn := w.extractLsb' 8 20

/-- R50 -/
def Tcfg.toWord (t : Tcfg) : Word := t.initVal ++ flagBit t.periodic ++ flagBit t.en
/-- R50: InitVal is bits N-1:2. -/
def Tcfg.ofWord (timerBits : Nat) (w : Word) : Tcfg where
  en := w.getLsbD 0
  periodic := w.getLsbD 1
  initVal := lowBits (timerBits - 2) (w.extractLsb' 2 30)

/-- R56 -/
def Dmw.toWord (d : Dmw) : Word :=
  d.vseg ++ 0#1 ++ d.pseg ++ 0#19 ++ d.mat ++ flagBit d.plv3 ++ 0#2 ++ flagBit d.plv0
/-- R56 -/
def Dmw.ofWord (w : Word) : Dmw where
  plv0 := w.getLsbD 0
  plv3 := w.getLsbD 3
  mat := w.extractLsb' 4 2
  pseg := w.extractLsb' 25 3
  vseg := w.extractLsb' 29 3

/-- PGD.Base (R46): the lower or upper half's directory by BADV[31]. -/
def pgdBase (c : Csrs) : BitVec 20 := if c.badv.getLsbD 31 then c.pgdh else c.pgdl

/-- LLBCTL (R53): KLO, WCLLB (reads 0), ROLLB. -/
def llbctlWord (s : State) : Word := 0#29 ++ flagBit s.csr.klo ++ 0#1 ++ flagBit s.llbit

/-- The value of a defined CSR (R330). -/
def csrWord (c : CsrName) (s : State) : Word :=
  match c with
  | .crmd => s.csr.crmd.toWord
  | .prmd => s.csr.prmd.toWord
  | .euen => 0#32
  | .ecfg => s.csr.ecfg.toWord
  | .estat => estatWord s
  | .era => s.csr.era
  | .badv => s.csr.badv
  | .eentry => s.csr.eentry ++ 0#6
  | .tlbidx => s.csr.tlbidx.toWord
  | .tlbehi => s.csr.tlbehi ++ 0#13
  | .tlbelo0 => s.csr.tlbelo0.toWord
  | .tlbelo1 => s.csr.tlbelo1.toWord
  | .asid => 0#8 ++ 10#8 ++ 0#6 ++ s.csr.asid
  | .pgdl => s.csr.pgdl ++ 0#12
  | .pgdh => s.csr.pgdh ++ 0#12
  | .pgd => pgdBase s.csr ++ 0#12
  | .cpuid => 0#23 ++ s.params.coreId
  | .save0 => s.csr.save0
  | .save1 => s.csr.save1
  | .save2 => s.csr.save2
  | .save3 => s.csr.save3
  | .tid => s.csr.tid
  | .tcfg => s.csr.tcfg.toWord
  | .tval => s.timerCnt
  | .ticlr => 0#32
  | .llbctl => llbctlWord s
  | .tlbreentry => s.csr.tlbreentry ++ 0#6
  | .ctag => 0#32
  | .dmw0 => s.csr.dmw0.toWord
  | .dmw1 => s.csr.dmw1.toWord

/-- CsrRead(n) (R330); an undefined number reads 0 (R57). -/
def csrRead (n : BitVec 14) (s : State) : Word :=
  match csrNamed n with
  | some c => csrWord c s
  | none => 0#32

/-- The bits of a write under mask: the old bit where the mask is 0 (R333). -/
def maskedWord (old value mask : Word) : Word := (old &&& ~~~mask) ||| (value &&& mask)

/-- The timer after TCFG has been written (`60_exceptions.md` R444): enabled, it is loaded and runs;
not enabled, it stops. -/
def loadTimer (t : Tcfg) (s : State) : State :=
  if t.en then
    { s with csr := { s.csr with tcfg := t }, timerCnt := t.initVal ++ 0#2, timerRunning := true }
  else { s with csr := { s.csr with tcfg := t }, timerRunning := false }

/-- The RW fields of a defined CSR take the bits of `w`; the W1 fields act on the ones of `ones`
(R58, R333). -/
def csrStore (c : CsrName) (w ones : Word) (s : State) : State :=
  match c with
  | .crmd => { s with csr := { s.csr with crmd := Crmd.ofWord w } }
  | .prmd => { s with csr := { s.csr with prmd := Prmd.ofWord w } }
  | .euen => s
  | .ecfg => { s with csr := { s.csr with ecfg := Ecfg.ofWord w } }
  | .estat => { s with csr := { s.csr with estat := { s.csr.estat with swi := w.extractLsb' 0 2 } } }
  | .era => { s with csr := { s.csr with era := w } }
  | .badv => { s with csr := { s.csr with badv := w } }
  | .eentry => { s with csr := { s.csr with eentry := w.extractLsb' 6 26 } }
  | .tlbidx => { s with csr := { s.csr with tlbidx := TlbIdx.ofWord (tlbIdxBits s.tlb.length) w } }
  | .tlbehi => { s with csr := { s.csr with tlbehi := w.extractLsb' 13 19 } }
  | .tlbelo0 => { s with csr := { s.csr with tlbelo0 := TlbElo.ofWord w } }
  | .tlbelo1 => { s with csr := { s.csr with tlbelo1 := TlbElo.ofWord w } }
  | .asid => { s with csr := { s.csr with asid := w.extractLsb' 0 10 } }
  | .pgdl => { s with csr := { s.csr with pgdl := w.extractLsb' 12 20 } }
  | .pgdh => { s with csr := { s.csr with pgdh := w.extractLsb' 12 20 } }
  | .pgd => s
  | .cpuid => s
  | .save0 => { s with csr := { s.csr with save0 := w } }
  | .save1 => { s with csr := { s.csr with save1 := w } }
  | .save2 => { s with csr := { s.csr with save2 := w } }
  | .save3 => { s with csr := { s.csr with save3 := w } }
  | .tid => { s with csr := { s.csr with tid := w } }
  | .tcfg => loadTimer (Tcfg.ofWord s.params.timerBits w) s
  | .tval => s
  | .ticlr =>
    { s with csr := { s.csr with estat := { s.csr.estat with ti := s.csr.estat.ti && !ones.getLsbD 0 } } }
  | .llbctl =>
    { s with csr := { s.csr with klo := w.getLsbD 2 }, llbit := s.llbit && !ones.getLsbD 1 }
  | .tlbreentry => { s with csr := { s.csr with tlbreentry := w.extractLsb' 6 26 } }
  | .ctag => s
  | .dmw0 => { s with csr := { s.csr with dmw0 := Dmw.ofWord w } }
  | .dmw1 => { s with csr := { s.csr with dmw1 := Dmw.ofWord w } }

/-- CsrWrite(n, value, mask) (R333); of an undefined number, nothing (R57). -/
def csrWrite (n : BitVec 14) (value mask : Word) (s : State) : State :=
  match csrNamed n with
  | some c => csrStore c (maskedWord (csrWord c s) value mask) (value &&& mask) s
  | none => s

end Sys2Proof.Machine
end

