-- ==== Sys2Proof/Machine/Privileged.lean ====
section
/-! DEFINITION. The eleven privileged instructions (`45_privileged.md` R330 to R370). -/

namespace Sys2Proof.Machine

/-- CSRRD (R330) -/
def execCsrrd (rd : Reg) (csr : BitVec 14) (s : State) : Host.Outcome State Fault Refusal :=
  privileged s (.done (writeNext rd (csrRead csr s) s))

/-- CSRWR (R331): x[rd] supplies the new value and receives the old one. -/
def execCsrwr (rd : Reg) (csr : BitVec 14) (s : State) : Host.Outcome State Fault Refusal :=
  privileged s (.done (writeNext rd (csrRead csr s) (csrWrite csr (s.reg rd) (BitVec.allOnes 32) s)))

/-- CSRXCHG (R332): x[rj] is the mask. -/
def execCsrxchg (rd rj : Reg) (csr : BitVec 14) (s : State) : Host.Outcome State Fault Refusal :=
  privileged s (.done (writeNext rd (csrRead csr s) (csrWrite csr (s.reg rd) (s.reg rj) s)))

/-- CACOP (R340): this hardware has no cache; no address is formed (log 20). -/
def execCacop (_code : BitVec 5) (_rj : Reg) (_si12 : BitVec 12) (s : State) :
    Host.Outcome State Fault Refusal :=
  privileged s (.done s.advance)

/-- TLBSRCH (R344) -/
def execTlbsrch (s : State) : Host.Outcome State Fault Refusal :=
  privileged s
    ((searchedIdx (tlbSearch s.csr.asid (s.csr.tlbehi ++ 0#13) s.tlb) s.csr.tlbidx).bind
      fun idx => .done { s with csr := { s.csr with tlbidx := idx } }.advance)

/-- TLBRD (R345). Index out of range: U5. -/
def execTlbrd (s : State) : Host.Outcome State Fault Refusal :=
  privileged s
    (match s.tlb[s.csr.tlbidx.index.toNat]? with
      | some t =>
        .done { s with csr := readEntryCsrs s.params.tlbrdInvalidClears t s.csr }.advance
      | none => .refuse .tlbIndexOutOfRange)

/-- TLBWR (R346) -/
def execTlbwr (s : State) : Host.Outcome State Fault Refusal :=
  privileged s ((tlbWriteEntry s.csr.tlbidx.index.toNat s).bind fun t => .done t.advance)

/-- TLBFILL (R347): the index is a free value of the range (U11, log 7). -/
def execTlbfill (s : State) : Host.Outcome State Fault Refusal :=
  privileged s
    ((tlbWriteEntry (Config.tlbFillDraw s.draws % s.tlb.length) s).bind
      fun t => .done { t with draws := s.draws + 1 }.advance)

/-- ERTN (R360) -/
def execErtn (s : State) : Host.Outcome State Fault Refusal := privileged s (.done (trapReturn s))

/-- INVTLB (R350): an op above 6 is no instruction, before the privilege check. -/
def execInvtlb (op : BitVec 5) (rj rk : Reg) (s : State) : Host.Outcome State Fault Refusal :=
  if 6 < op.toNat then raise .ine s
  else
    privileged s
      (.done { s with tlb := invalidate op ((s.reg rj).extractLsb' 0 10) (s.reg rk) s.tlb }.advance)

/-- IDLE (R365) -/
def execIdle (_hint : BitVec 15) (s : State) : Host.Outcome State Fault Refusal :=
  privileged s (.done { s.advance with idleWait := true })

end Sys2Proof.Machine
end

