-- ==== Sys2Proof/Machine/System.lean ====
section
/-! DEFINITION. Barriers, system call, breakpoint and time reads (`44_barrier_system_time.md` R310 to
R322), legal at every privilege level. -/

namespace Sys2Proof.Machine

/-- DBAR (R310, `20_memory.md` R111): no state changes with one core in program order. -/
def execDbar (_hint : BitVec 15) (s : State) : Host.Outcome State Fault Refusal := .next s.advance

/-- IBAR (R311, `20_memory.md` R112): no state changes without caches. -/
def execIbar (_hint : BitVec 15) (s : State) : Host.Outcome State Fault Refusal := .next s.advance

/-- SYSCALL (R315): the code is recorded nowhere. -/
def execSyscall (_code : BitVec 15) (s : State) : Host.Outcome State Fault Refusal := raise .sys s

/-- BREAK (R316): the code is recorded nowhere. -/
def execBrk (_code : BitVec 15) (s : State) : Host.Outcome State Fault Refusal := raise .brk s

/-- RDCNTVL.W (R320) -/
def execRdcntvlW (rd : Reg) (s : State) : Host.Outcome State Fault Refusal :=
  .next (writeNext rd (s.stableCounter.extractLsb' 0 32) s)

/-- RDCNTVH.W (R321) -/
def execRdcntvhW (rd : Reg) (s : State) : Host.Outcome State Fault Refusal :=
  .next (writeNext rd (s.stableCounter.extractLsb' 32 32) s)

/-- RDCNTID (R322): the destination is rj, the value CSR.TID. -/
def execRdcntid (rj : Reg) (s : State) : Host.Outcome State Fault Refusal :=
  .next (writeNext rj s.csr.tid s)

end Sys2Proof.Machine
end

