-- ==== Sys2Proof/Machine/Fetch.lean ====
section
/-! DEFINITION. Fetching and decoding the instruction at the pc (`20_memory.md` R83, R85,
`60_exceptions.md` R430 items 2 and 3). -/

namespace Sys2Proof.Machine

/-- The four bytes at a physical address, lowest first (R83). -/
def instructionBytes (m : List Host.Cell) (pa : Word) : List Byte :=
  [Memory.readByte m pa, Memory.readByte m (pa + 1#32), Memory.readByte m (pa + 2#32),
    Memory.readByte m (pa + 3#32)]

/-- The bytes of the instruction at the pc: alignment first, then translation, then the platform. -/
def fetchBytes (s : State) : Attempt (List Byte) :=
  if aligned 4 s.pc then
    (translate .fetch s.pc s).bind fun r =>
      (checkBacked s.params r.pa 4).bind fun _ => .done (instructionBytes s.mem r.pa)
  else .trap (.adef s.pc)

/-- The instruction at the pc; a word that is none raises INE (`60_exceptions.md` R409). -/
def fetchInstr (s : State) : Attempt Instr :=
  (fetchBytes s).bind fun bytes =>
    match decodeBytes bytes with
    | .instr i => .done i
    | .reject _ => .trap .ine

/-- The physical address from which the next instruction is fetched; the pc itself where its
translation does not succeed. -/
def fetchAddress (s : State) : Word :=
  match translate .fetch s.pc s with
  | .done r => r.pa
  | _ => s.pc

end Sys2Proof.Machine
end

