-- ==== Sys2Proof/Machine/Time.lean ====
section
/-! DEFINITION. The counting clock, the timer, the input lines and reset (`44_barrier_system_time.md`
R323, `60_exceptions.md` R435, R440, R444, `70_reset_and_hazards.md` R461, R475). -/

namespace Sys2Proof.Machine

/-- The timer's part of a tick (R444). The value a one-shot expiry leaves is free (U12, log 8). -/
def timerTick (s : State) : State :=
  if s.timerRunning then
    if s.timerCnt = 0#32 then
      if s.csr.tcfg.periodic then
        { s with
          csr := { s.csr with estat := { s.csr.estat with ti := true } }
          timerCnt := s.csr.tcfg.initVal ++ 0#2 }
      else
        { s with
          csr := { s.csr with estat := { s.csr.estat with ti := true } }
          timerCnt := lowBits s.params.timerBits (Config.timerStopValue s.draws)
          timerRunning := false
          draws := s.draws + 1 }
    else { s with timerCnt := s.timerCnt - 1#32 }
  else s

/-- One tick: the Stable Counter and the timer (R323). -/
def tick (s : State) : State := timerTick { s with stableCounter := s.stableCounter + 1#64 }

/-- Some ticks, one after another. -/
def ticks : Nat → State → State
  | 0, s => s
  | n + 1, s => ticks n (tick s)

/-- Reset asserted on a running machine (R461): the registers and the TLB are those of
`State.reset`; memory, the lines and the model's own fields stay (log 9). -/
def assertReset (s : State) : State :=
  { State.reset with
    csr := Csrs.reset s.params.coreId
    tlb := List.replicate s.tlb.length TlbEntry.empty
    hwi := s.hwi
    ipi := s.ipi
    mem := s.mem
    inputs := s.inputs
    draws := s.draws
    params := s.params }

/-- What the environment does at this boundary has happened: ticks, then the lines (log 19). Without
an entry left, no time passes and the lines keep their levels (log 3). -/
def environment (s : State) : State :=
  match s.inputs with
  | [] => s
  | i :: rest => { ticks i.ticks s with hwi := i.hwi, ipi := i.ipi, inputs := rest }

/-- Reset is asserted at this boundary. -/
def resetAsserted (s : State) : Bool :=
  match s.inputs with
  | [] => false
  | i :: _ => i.reset

/-- int_vec (R435): the sources that are pending and locally enabled. -/
def pendingEnabled (s : State) : BitVec 13 := interruptStatus s &&& s.csr.ecfg.lie

/-- What an instruction boundary comes to: a whole step, or an instruction to fetch. -/
inductive Boundary where
  | settled (s : State)
  | ready (s : State)
deriving DecidableEq, Repr

/-- The decision at a boundary once the environment has acted (R435, `45_privileged.md` R365): a core
that waits stays until a source is pending and enabled; then a globally enabled interrupt is taken;
else the next instruction is fetched. -/
def interruptDecision (s : State) : Boundary :=
  if s.idleWait = true ∧ pendingEnabled s = 0#13 then .settled s
  else if s.csr.crmd.ie = true ∧ pendingEnabled s ≠ 0#13 then
    .settled (trapEntry .int s.pc { s with idleWait := false })
  else .ready { s with idleWait := false }

/-- An instruction boundary: reset, or what the environment does and then the interrupt decision. -/
def boundary (s : State) : Boundary :=
  if resetAsserted s then .settled (assertReset (environment s)) else interruptDecision (environment s)

end Sys2Proof.Machine
end

