-- ==== Sys2Proof/Machine/Step.lean ====
section
/-! DEFINITION. One step: an instruction boundary, then one instruction or one trap
(`10_state.md` R26, `60_exceptions.md` R430). -/

namespace Sys2Proof.Machine

/-- One step of the machine. -/
def step (s : State) : Host.Outcome State Fault Refusal :=
  match boundary s with
  | .settled t => .next t
  | .ready t =>
    match fetchInstr t with
    | .done i => exec i t
    | .trap x => .next (trapEntry x t.pc t)
    | .fault f => .fault f
    | .refuse r => .refused r

/-- `s` with the `nbits` low bits of `w` stored as one instruction word where `step` fetches next, and
the core not waiting; it stands for loading a program from outside (assumption log 22). -/
def State.withFetchWord (s : State) (nbits w : Nat) : State :=
  { s.storeBytes (fetchAddress s) (wordBytes (BitVec.ofNat 32 (w % 2 ^ nbits))) with
    idleWait := false }

end Sys2Proof.Machine
end

