-- ==== Sys2Proof/Safety.lean ====
section
/-! DEFINITION. What claims about LA32R speak of: the invariant of the machine, and the launch premises
and the end of a run of `70_reset_and_hazards.md` R475. -/

namespace Sys2Proof.Machine

/-- A TLB entry that exists holds a page size of `LEGAL_PS` (`00_scope.md` R8). -/
def TlbEntry.wf (p : Params) (t : TlbEntry) : Bool := !t.e || legalPageSize p t.ps

/-- The state is one that the machine's widths and parameters admit: memory is canonical, register 0
holds 0, the parameters and the TLB's size are in the bounds of R8, every existing entry's page size is
legal, and TLBIDX.Index, TCFG.InitVal and timer_cnt fit their widths. -/
structure Invariant (s : State) : Prop where
  memory : Memory.wf s.mem
  zero : s.gpr[0] = 0
  params : s.params.wf = true
  tlbSize : 1 ≤ s.tlb.length ∧ s.tlb.length ≤ 65536
  entries : ∀ t ∈ s.tlb, t.wf s.params = true
  index : s.csr.tlbidx.index.toNat < 2 ^ tlbIdxBits s.tlb.length
  initVal : s.csr.tcfg.initVal.toNat < 2 ^ (s.params.timerBits - 2)
  timer : s.timerCnt.toNat < 2 ^ s.params.timerBits

/-- `ProgramAt(a, words)` (R475): `a` is 4-byte aligned, and physical memory holds the little-endian
bytes of the words at a, a+4, and so on. -/
structure ProgramAt (a : Word) (words : List Word) (s : State) : Prop where
  aligned : a.toNat % 4 = 0
  stored : ∀ k w, words[k]? = some w → Memory.readWord s.mem (a + BitVec.ofNat 32 (4 * k)) = w

/-- `BareLaunch(a)` (R475): the reset state but with pc = a, over any memory and parameters. -/
def BareLaunch (a : Word) (s : State) : Prop :=
  ∃ t, s = { assertReset t with pc := a }

/-- `NoInterrupts` (R475): no line is or will be asserted, and the timer is not enabled. -/
def NoInterrupts (s : State) : Prop :=
  s.hwi = 0 ∧ s.ipi = false ∧ s.csr.tcfg.en = false ∧ s.timerRunning = false ∧
    ∀ i ∈ s.inputs, i.hwi = 0 ∧ i.ipi = false

/-- `MemoryBacked(S)` (R475): every physical address of `S` is ordinary memory. -/
def MemoryBacked (S : Word → Prop) (s : State) : Prop := ∀ pa, S pa → regionAt s.params pa = some .ram

/-- The end marker of a run (R475, D40): the pc has reached `END_PC`, an address that the claim about
the run names. The spec leaves the marker to the model: DESIGN CHOICE (assumption log 29). -/
def Ended (endPc : Word) (s : State) : Prop := s.pc = endPc

/-- A run from `s` ends in `t`: step by step, up to the first state with pc = `END_PC` (log 29). A run
that meets a fault or a refusal before, or never reaches `END_PC`, ends in no state. -/
inductive RunsTo (endPc : Word) : State → State → Prop where
  | ended {s : State} (h : Ended endPc s) : RunsTo endPc s s
  | next {s u t : State} (h : ¬ Ended endPc s) (hs : step s = .next u) (ht : RunsTo endPc u t) :
    RunsTo endPc s t

/-- The boundary lets the instruction at the pc be fetched at once: the environment does nothing, the
core does not wait, no interrupt is taken. -/
def Quiet (s : State) : Prop :=
  s.inputs = [] ∧ s.idleWait = false ∧ (s.csr.crmd.ie = false ∨ pendingEnabled s = 0#13)

/-! What an instruction leaves and what it writes. -/

/-- Every general register reads as before. -/
def SameRegs (s t : State) : Prop := ∀ r, t.reg r = s.reg r

/-- x[rd] <- v: every other register reads as before, and nothing is written when rd is 0 (R20). -/
def WritesReg (rd : Reg) (v : Word) (s t : State) : Prop :=
  ∀ r, t.reg r = if r = rd ∧ rd ≠ 0#5 then v else s.reg r

/-- Every byte of physical memory reads as before. -/
def SameMem (s t : State) : Prop := ∀ pa, t.byteAt pa = s.byteAt pa

/-- Every byte of physical memory outside a set of addresses reads as before. -/
def SameMemOutside (stored : List Word) (s t : State) : Prop :=
  ∀ pa, pa ∉ stored → t.byteAt pa = s.byteAt pa

/-- The timer's counter, the Stable Counter, the input lines, the schedule and the parameters, and
whether the core waits, are as before. -/
structure SameOutside (s t : State) : Prop where
  timerCnt : t.timerCnt = s.timerCnt
  timerRunning : t.timerRunning = s.timerRunning
  stableCounter : t.stableCounter = s.stableCounter
  idleWait : t.idleWait = s.idleWait
  hwi : t.hwi = s.hwi
  ipi : t.ipi = s.ipi
  inputs : t.inputs = s.inputs
  params : t.params = s.params

/-- Everything but the general registers, the pc, memory, LLbit and the count of draws is as before:
every CSR, the TLB, and what is outside the instructions. -/
structure SameSystem (s t : State) : Prop where
  csr : t.csr = s.csr
  tlb : t.tlb = s.tlb
  outside : SameOutside s t

/-- The effect of an instruction that computes a register: x[rd] <- v, the pc advances by 4, all else
is as before. -/
structure ComputesReg (rd : Reg) (v : Word) (s t : State) : Prop where
  regs : WritesReg rd v s t
  pc : t.pc.toNat = (s.pc.toNat + 4) % 2 ^ 32
  mem : SameMem s t
  llbit : t.llbit = s.llbit
  draws : t.draws = s.draws
  system : SameSystem s t

/-- All but the pc is as before. -/
structure OnlyPc (s t : State) : Prop where
  regs : SameRegs s t
  mem : SameMem s t
  llbit : t.llbit = s.llbit
  draws : t.draws = s.draws
  system : SameSystem s t

/-- The pc after an instruction that does not transfer (`10_state.md` R26). -/
def Advances (s t : State) : Prop := t.pc.toNat = (s.pc.toNat + 4) % 2 ^ 32

/-- A trap has been taken (`60_exceptions.md` R420 to R424): the codes, what BADV and TLBEHI.VPPN
record (`none`: nothing), ERA, PRMD, CRMD, the pc at the handler, and nothing else. -/
structure Enters (code sub : Nat) (bad vpn : Option Word) (s t : State) : Prop where
  pplv : t.csr.prmd.pplv = s.csr.crmd.plv
  pie : t.csr.prmd.pie = s.csr.crmd.ie
  plv : t.csr.crmd.plv = 0#2
  ie : t.csr.crmd.ie = false
  da : t.csr.crmd.da = if code = 0x3F then true else s.csr.crmd.da
  pg : t.csr.crmd.pg = if code = 0x3F then false else s.csr.crmd.pg
  mats : t.csr.crmd.datf = s.csr.crmd.datf ∧ t.csr.crmd.datm = s.csr.crmd.datm
  era : t.csr.era = s.pc
  ecode : t.csr.estat.ecode.toNat = code
  esubcode : t.csr.estat.esubcode.toNat = sub
  status : t.csr.estat.swi = s.csr.estat.swi ∧ t.csr.estat.ti = s.csr.estat.ti
  badv : t.csr.badv = bad.getD s.csr.badv
  page : t.csr.tlbehi.toNat = (vpn.map fun va => va.toNat / 2 ^ 13).getD s.csr.tlbehi.toNat
  others :
    { t.csr with
      prmd := s.csr.prmd
      crmd := s.csr.crmd
      era := s.csr.era
      estat := s.csr.estat
      badv := s.csr.badv
      tlbehi := s.csr.tlbehi } = s.csr
  pc : t.pc.toNat = 64 * (if code = 0x3F then s.csr.tlbreentry.toNat else s.csr.eentry.toNat)
  regs : SameRegs s t
  mem : SameMem s t
  llbit : t.llbit = s.llbit
  tlb : t.tlb = s.tlb
  draws : t.draws = s.draws
  outside : SameOutside s t

/-- The instruction traps at `s`, with no effect of its own (`00_scope.md` R15). -/
def Traps (i : Instr) (code sub : Nat) (bad vpn : Option Word) (s : State) : Prop :=
  ∃ t, exec i s = .next t ∧ Enters code sub bad vpn s t

/-- The word of an instruction has the match value of its row under the row's mask
(`30_encoding.md` R161). -/
def Row (i : Instr) (matchValue mask : Word) : Prop := encode i &&& mask = matchValue

/-- The privilege check of `45_privileged.md` R370: elsewhere than at PLV0 the instruction raises IPE. -/
def ChecksPrivilege (i : Instr) (s : State) : Prop :=
  s.csr.crmd.plv ≠ 0#2 → Traps i 0xE 0 none none s

/-- The step traps, with no other effect. -/
def StepTraps (code sub : Nat) (bad vpn : Option Word) (s : State) : Prop :=
  ∃ t, step s = .next t ∧ Enters code sub bad vpn s t

/-- The data access an instruction makes in a state: its kind, its width in bytes and its virtual
address (`20_memory.md` R81, R106). An SC.W with LLbit 0 makes none. -/
def dataAccessOf (i : Instr) (s : State) : Option (AccessKind × Nat × Word) :=
  match i with
  | .ldB _ rj si12 => some (.load, 1, dataAddress rj si12 s)
  | .ldBu _ rj si12 => some (.load, 1, dataAddress rj si12 s)
  | .ldH _ rj si12 => some (.load, 2, dataAddress rj si12 s)
  | .ldHu _ rj si12 => some (.load, 2, dataAddress rj si12 s)
  | .ldW _ rj si12 => some (.load, 4, dataAddress rj si12 s)
  | .llW _ rj si14 => some (.load, 4, linkAddress rj si14 s)
  | .stB _ rj si12 => some (.store, 1, dataAddress rj si12 s)
  | .stH _ rj si12 => some (.store, 2, dataAddress rj si12 s)
  | .stW _ rj si12 => some (.store, 4, dataAddress rj si12 s)
  | .scW _ rj si14 => if s.llbit then some (.store, 4, linkAddress rj si14 s) else none
  | _ => none

/-- Direct address translation mode (`20_memory.md` R100). -/
def DirectMode (s : State) : Prop := s.csr.crmd.da = true ∧ s.csr.crmd.pg = false

/-- Mapped address translation mode (R100). -/
def MappedMode (s : State) : Prop := s.csr.crmd.da = false ∧ s.csr.crmd.pg = true

/-- Window `d` maps an address at a level, in the words of R102: its enable for the level is 1 and
the address's top three bits are VSEG. -/
def InWindow (d : Dmw) (plv : BitVec 2) (va : Word) : Prop :=
  ((plv = 0#2 ∧ d.plv0 = true) ∨ (plv = 3#2 ∧ d.plv3 = true)) ∧ va.toNat / 2 ^ 29 = d.vseg.toNat

/-- No valid window maps the address at the current level. -/
def NoWindow (s : State) (va : Word) : Prop :=
  ¬ InWindow s.csr.dmw0 s.csr.crmd.plv va ∧ ¬ InWindow s.csr.dmw1 s.csr.crmd.plv va

/-- An entry matches an address in an address space, in the words of R104. -/
def EntryMatches (e : TlbEntry) (asid : BitVec 10) (va : Word) : Prop :=
  e.e = true ∧ (e.g = true ∨ e.asid = asid) ∧ 12 ≤ e.ps.toNat ∧ e.ps.toNat ≤ 30 ∧
    e.vppn.toNat / 2 ^ (e.ps.toNat - 12) = va.toNat / 2 ^ (e.ps.toNat + 1)

/-- No entry of a list matches. -/
def NoneMatches (l : List TlbEntry) (asid : BitVec 10) (va : Word) : Prop :=
  ∀ e ∈ l, ¬ EntryMatches e asid va

/-- Entry `e` at index `i` is the only entry of the TLB that matches. -/
def OnlyMatch (s : State) (i : Nat) (e : TlbEntry) (asid : BitVec 10) (va : Word) : Prop :=
  s.tlb[i]? = some e ∧ EntryMatches e asid va ∧
    ∀ j f, s.tlb[j]? = some f → EntryMatches f asid va → j = i

/-- The half of an entry that an address selects by its bit PS (R104). -/
def selectedPage (e : TlbEntry) (va : Word) : TlbPage :=
  if va.toNat / 2 ^ e.ps.toNat % 2 = 0 then e.page0 else e.page1

/-! Completion: the forms in which a statement says that an instruction ends in a next state. -/

/-- The instruction completes: it computes a register, and the value is one that `P` describes. -/
def Computes (i : Instr) (rd : Reg) (s : State) (P : Word → Prop) : Prop :=
  ∃ t v, exec i s = .next t ∧ ComputesReg rd v s t ∧ P v

/-- The instruction completes with no effect but on the pc, which is `target` after it. -/
def Transfers (i : Instr) (s : State) (target : Word) : Prop :=
  ∃ t, exec i s = .next t ∧ OnlyPc s t ∧ t.pc = target

/-- The instruction completes, links and jumps: x[rd] <- the address after it, pc <- target. -/
def LinksAndJumps (i : Instr) (rd : Reg) (s : State) (target : Word) : Prop :=
  ∃ t, exec i s = .next t ∧ WritesReg rd (s.pc + 4#32) s t ∧ t.pc = target ∧ SameMem s t ∧
    t.llbit = s.llbit ∧ t.draws = s.draws ∧ SameSystem s t

/-- The instruction completes with no effect but that the pc advances. -/
def Skips (i : Instr) (s : State) : Prop := ∃ t, exec i s = .next t ∧ OnlyPc s t ∧ Advances s t

/-- The bytes stored from a physical address on, the first at the lowest, and no other byte changed. -/
def StoredBytes (pa : Word) (bytes : List Nat) (s t : State) : Prop :=
  (∀ k b, bytes[k]? = some b → (t.byteAt (pa + BitVec.ofNat 32 k)).toNat = b) ∧
    ∀ c, (∀ k, k < bytes.length → c ≠ pa + BitVec.ofNat 32 k) → t.byteAt c = s.byteAt c

/-- The instruction completes: it stores bytes, the pc advances, all else is as before. -/
def Stores (i : Instr) (pa : Word) (bytes : List Nat) (s : State) : Prop :=
  ∃ t, exec i s = .next t ∧ StoredBytes pa bytes s t ∧ SameRegs s t ∧ Advances s t ∧
    t.llbit = s.llbit ∧ t.draws = s.draws ∧ SameSystem s t

/-- The instruction completes, and leaves all but the CSRs, the TLB and the count of draws as before,
the pc advanced. -/
def SystemOnly (i : Instr) (s t : State) : Prop :=
  exec i s = .next t ∧ SameRegs s t ∧ SameMem s t ∧ t.llbit = s.llbit ∧ Advances s t ∧
    SameOutside s t

/-- A truncating division: the quotient is cut toward zero, the remainder has the sign of the
dividend (`41_muldiv.md` R250 a). -/
def TruncatedDivision (a b q r : Int) : Prop :=
  a = q * b + r ∧ |r| < |b| ∧ (0 ≤ a → 0 ≤ r) ∧ (a ≤ 0 → r ≤ 0)

/-- The halfword at a physical address as a number (`20_memory.md` R82). -/
def halfAt (s : State) (pa : Word) : Nat :=
  (s.byteAt pa).toNat + 2 ^ 8 * (s.byteAt (pa + 1#32)).toNat

/-- The word at a physical address as a number (R82). -/
def wordAt (s : State) (pa : Word) : Nat :=
  (s.byteAt pa).toNat + 2 ^ 8 * (s.byteAt (pa + 1#32)).toNat +
    2 ^ 16 * (s.byteAt (pa + 2#32)).toNat + 2 ^ 24 * (s.byteAt (pa + 3#32)).toNat

/-- The bytes of a number, lowest first, `n` of them. -/
def littleEndian (n v : Nat) : List Nat := (List.range n).map fun k => v / 2 ^ (8 * k) % 2 ^ 8

/-- Every byte of an access is ordinary memory. -/
def Backed (n : Nat) (pa : Word) (s : State) : Prop :=
  ∀ k, k < n → regionAt s.params (pa + BitVec.ofNat 32 k) = some .ram

/-- A data access of `n` bytes at `va` succeeds at the physical address `pa` (`43_load_store.md` R280,
steps 2 to 4): it is aligned, its translation gives `pa`, and every byte is ordinary memory. -/
def Reaches (kind : AccessKind) (n : Nat) (va pa : Word) (s : State) : Prop :=
  va.toNat % n = 0 ∧ (∃ r, Sys2Proof.Machine.translate kind va s = .done r ∧ r.pa = pa) ∧
    Backed n pa s

/-- The word fetched at the pc (`20_memory.md` R83): the pc is aligned, its translation succeeds, and
the four bytes there are ordinary memory that holds `w`, little-endian. -/
def Fetches (s : State) (w : Word) : Prop :=
  s.pc.toNat % 4 = 0 ∧
    ∃ r, Sys2Proof.Machine.translate .fetch s.pc s = .done r ∧ Backed 4 r.pa s ∧
      wordAt s r.pa = w.toNat

/-- A place `offs` words from the instruction itself (`42_branch_jump.md` R260 b, c, d). -/
def wordsFrom {w : Nat} (base : Word) (offs : BitVec w) : Word := base + BitVec.ofInt 32 (4 * offs.toInt)

/-- The instruction completes with some value in x[rd], of which nothing is said; all else but the pc
and the count of draws is as before (`41_muldiv.md` R250 b). -/
def ComputesUnspecified (i : Instr) (rd : Reg) (s : State) : Prop :=
  ∃ t v, exec i s = .next t ∧ WritesReg rd v s t ∧ Advances s t ∧ SameMem s t ∧
    t.llbit = s.llbit ∧ SameSystem s t

/-- An address that this level may use through the TLB (`20_memory.md` R103): PLV0 the whole space,
the others the half with bit 31 = 0. -/
def MayUse (s : State) (va : Word) : Prop := s.csr.crmd.plv = 0#2 ∨ va.toNat < 2 ^ 31

/-- Two different entries of the TLB match (U1). -/
def SeveralMatch (s : State) (asid : BitVec 10) (va : Word) : Prop :=
  ∃ (i j : Nat) (e f : TlbEntry), i < j ∧ s.tlb[i]? = some e ∧ s.tlb[j]? = some f ∧ EntryMatches e asid va ∧
    EntryMatches f asid va

/-! CSRs as numbers, in the arithmetic of the layouts of `10_state.md` R32 to R56. -/

/-- TLBELO0 or TLBELO1 as a number (R42). -/
def eloValue (t : TlbElo) : Nat :=
  t.v.toNat + 2 * t.d.toNat + 4 * t.plv.toNat + 16 * t.mat.toNat + 64 * t.g.toNat + 256 * t.ppn.toNat

/-- DMW0 or DMW1 as a number (R56). -/
def dmwValue (d : Dmw) : Nat :=
  d.plv0.toNat + 8 * d.plv3.toNat + 16 * d.mat.toNat + 2 ^ 25 * d.pseg.toNat + 2 ^ 29 * d.vseg.toNat

/-- ESTAT as a number (R36). -/
def estatValue (s : State) : Nat :=
  s.csr.estat.swi.toNat + 4 * s.hwi.toNat + 2 ^ 11 * s.csr.estat.ti.toNat + 2 ^ 12 * s.ipi.toNat +
    2 ^ 16 * s.csr.estat.ecode.toNat + 2 ^ 22 * s.csr.estat.esubcode.toNat

/-- What the CSR of a number reads as (R31 to R57); 0 for an undefined number. -/
def csrValue (n : Nat) (s : State) : Nat :=
  let c := s.csr
  if n = 0x0 then
    c.crmd.plv.toNat + 4 * c.crmd.ie.toNat + 8 * c.crmd.da.toNat + 16 * c.crmd.pg.toNat +
      32 * c.crmd.datf.toNat + 128 * c.crmd.datm.toNat
  else if n = 0x1 then c.prmd.pplv.toNat + 4 * c.prmd.pie.toNat
  else if n = 0x4 then c.ecfg.lieLow.toNat + 2 ^ 11 * c.ecfg.lieHigh.toNat
  else if n = 0x5 then estatValue s
  else if n = 0x6 then c.era.toNat
  else if n = 0x7 then c.badv.toNat
  else if n = 0xC then 64 * c.eentry.toNat
  else if n = 0x10 then c.tlbidx.index.toNat + 2 ^ 24 * c.tlbidx.ps.toNat + 2 ^ 31 * c.tlbidx.ne.toNat
  else if n = 0x11 then 2 ^ 13 * c.tlbehi.toNat
  else if n = 0x12 then eloValue c.tlbelo0
  else if n = 0x13 then eloValue c.tlbelo1
  else if n = 0x18 then c.asid.toNat + 2 ^ 16 * 10
  else if n = 0x19 then 2 ^ 12 * c.pgdl.toNat
  else if n = 0x1A then 2 ^ 12 * c.pgdh.toNat
  else if n = 0x1B then 2 ^ 12 * (if c.badv.toNat < 2 ^ 31 then c.pgdl.toNat else c.pgdh.toNat)
  else if n = 0x20 then s.params.coreId.toNat
  else if n = 0x30 then c.save0.toNat
  else if n = 0x31 then c.save1.toNat
  else if n = 0x32 then c.save2.toNat
  else if n = 0x33 then c.save3.toNat
  else if n = 0x40 then c.tid.toNat
  else if n = 0x41 then c.tcfg.en.toNat + 2 * c.tcfg.periodic.toNat + 4 * c.tcfg.initVal.toNat
  else if n = 0x42 then s.timerCnt.toNat
  else if n = 0x60 then s.llbit.toNat + 4 * c.klo.toNat
  else if n = 0x88 then 64 * c.tlbreentry.toNat
  else if n = 0x180 then dmwValue c.dmw0
  else if n = 0x181 then dmwValue c.dmw1
  else 0

/-- The numbers of the CSRs of `10_state.md` R31. -/
def definedCsrs : List (BitVec 14) :=
  [0x0, 0x1, 0x2, 0x4, 0x5, 0x6, 0x7, 0xC, 0x10, 0x11, 0x12, 0x13, 0x18, 0x19, 0x1A, 0x1B, 0x20, 0x30,
    0x31, 0x32, 0x33, 0x40, 0x41, 0x42, 0x44, 0x60, 0x88, 0x98, 0x180, 0x181]

/-- The CSRs whose write only stores RW fields, each with the bits of those fields (R32 to R56,
`45_privileged.md` R333 a, b, g). TLBIDX, whose width is a parameter, is not among them. -/
def storageCsrs : List (BitVec 14 × Word) :=
  [(0x0, 0x1FF), (0x1, 0x7), (0x4, 0x1BFF), (0x5, 0x3), (0x6, 0xFFFFFFFF), (0x7, 0xFFFFFFFF),
    (0xC, 0xFFFFFFC0), (0x11, 0xFFFFE000), (0x12, 0x0FFFFF7F), (0x13, 0x0FFFFF7F), (0x18, 0x3FF),
    (0x19, 0xFFFFF000), (0x1A, 0xFFFFF000), (0x30, 0xFFFFFFFF), (0x31, 0xFFFFFFFF),
    (0x32, 0xFFFFFFFF), (0x33, 0xFFFFFFFF), (0x40, 0xFFFFFFFF), (0x88, 0xFFFFFFC0),
    (0x180, 0xEE000039), (0x181, 0xEE000039)]

/-- The CSRs that a write can change in any way: the ones above, TLBIDX, TCFG, TICLR, LLBCTL. -/
def writableCsrs : List (BitVec 14) := storageCsrs.map Prod.fst ++ [0x10, 0x41, 0x44, 0x60]

/-- The bits of a word written under a mask, among the bits `rw` that can be written (R333). -/
def maskedWrite (old value mask rw : Word) : Word :=
  (old &&& ~~~(mask &&& rw)) ||| (value &&& mask &&& rw)

/-- `n` = ceil(log2(e)) (`00_scope.md` R8, `TLB_IDX_BITS`). -/
def IsCeilLog2 (n e : Nat) : Prop := e ≤ 2 ^ n ∧ ∀ m, e ≤ 2 ^ m → n ≤ m

/-- CSRWR or CSRXCHG of a CSR: x[rd] <- the old value, the pc advances; memory, the TLB and every CSR
but the ones named as changed read as before. LLbit is read as LLBCTL.ROLLB. -/
structure SwapsCsr (rd : Reg) (csr : BitVec 14) (changed : List (BitVec 14)) (s t : State) : Prop where
  regs : WritesReg rd (csrRead csr s) s t
  pc : Advances s t
  mem : SameMem s t
  draws : t.draws = s.draws
  tlb : t.tlb = s.tlb
  others : ∀ n, n ∉ changed → csrRead n t = csrRead n s

/-- The entry that TlbWriteEntry writes (`45_privileged.md` R348). -/
structure EntryWritten (s : State) (e : TlbEntry) : Prop where
  valid : e.e = true ↔
    s.csr.tlbidx.ne = false ∨
      (s.params.tlbwrRefillForcesValid = true ∧ s.csr.estat.ecode.toNat = 0x3F)
  vppn : e.vppn = s.csr.tlbehi
  ps : e.ps = s.csr.tlbidx.ps
  asid : e.asid = s.csr.asid
  g : e.g = true ↔ s.csr.tlbelo0.g = true ∧ s.csr.tlbelo1.g = true
  page0 : e.page0.v = s.csr.tlbelo0.v ∧ e.page0.d = s.csr.tlbelo0.d ∧
    e.page0.plv = s.csr.tlbelo0.plv ∧ e.page0.mat = s.csr.tlbelo0.mat ∧
    e.page0.ppn = s.csr.tlbelo0.ppn
  page1 : e.page1.v = s.csr.tlbelo1.v ∧ e.page1.d = s.csr.tlbelo1.d ∧
    e.page1.plv = s.csr.tlbelo1.plv ∧ e.page1.mat = s.csr.tlbelo1.mat ∧
    e.page1.ppn = s.csr.tlbelo1.ppn

/-- A valid entry would be written with a page size outside `LEGAL_PS` (U2). -/
def IllegalPageSize (s : State) : Prop :=
  (s.csr.tlbidx.ne = false ∨
      (s.params.tlbwrRefillForcesValid = true ∧ s.csr.estat.ecode.toNat = 0x3F)) ∧
    s.csr.tlbidx.ps.toNat ∉ s.params.legalPs

/-- Exactly the entry at `i` of the TLB changed, to one that TlbWriteEntry writes. -/
def WritesEntry (i : Nat) (s t : State) : Prop :=
  t.tlb.length = s.tlb.length ∧ (∃ e, t.tlb[i]? = some e ∧ EntryWritten s e) ∧
    ∀ j, j ≠ i → t.tlb[j]? = s.tlb[j]?

/-- The entry maps an address, whatever its address space (`45_privileged.md` R350, VaMatch). -/
def EntryMaps (e : TlbEntry) (va : Word) : Prop :=
  12 ≤ e.ps.toNat ∧ e.ps.toNat ≤ 30 ∧
    e.vppn.toNat / 2 ^ (e.ps.toNat - 12) = va.toNat / 2 ^ (e.ps.toNat + 1)

/-- The entries that INVTLB clears, by its op (R350). -/
def InvtlbClears (op : Nat) (asid : Nat) (va : Word) (e : TlbEntry) : Prop :=
  op = 0 ∨ op = 1 ∨ (op = 2 ∧ e.g = true) ∨ (op = 3 ∧ e.g = false) ∨
    (op = 4 ∧ e.g = false ∧ e.asid.toNat = asid) ∨
    (op = 5 ∧ e.g = false ∧ e.asid.toNat = asid ∧ EntryMaps e va) ∨
    (op = 6 ∧ (e.g = true ∨ e.asid.toNat = asid) ∧ EntryMaps e va)

/-- The values that `70_reset_and_hazards.md` R461 states for reset. -/
structure ResetValues (s : State) : Prop where
  zero : s.reg 0#5 = 0#32
  pc : s.pc = 0x1C000000#32
  crmd : csrRead 0x0#14 s = 0x00000008#32
  euen : csrRead 0x2#14 s = 0#32
  lie : csrRead 0x4#14 s = 0#32
  swi : s.csr.estat.swi = 0#2
  ti : s.csr.estat.ti = false
  en : s.csr.tcfg.en = false
  timerRunning : s.timerRunning = false
  klo : s.csr.klo = false
  llbit : s.llbit = false
  dmw0 : s.csr.dmw0.plv0 = false ∧ s.csr.dmw0.plv3 = false
  dmw1 : s.csr.dmw1.plv0 = false ∧ s.csr.dmw1.plv3 = false
  tid : csrRead 0x40#14 s = csrRead 0x20#14 s
  stableCounter : s.stableCounter = 0#64
  idleWait : s.idleWait = false

end Sys2Proof.Machine
end

