-- ==== Sys2Proof/Certificates/Slice0/Obligations.lean ====
section
/-! DEFINITION. The statements for the provers. Each docstring names the rules of spec/ it formalises,
or the log entry it rests on. The match value and mask of each instruction are those of
`30_encoding.md` R161, which its own rule repeats. -/

section
open Sys2Proof Sys2Proof.Machine

/-! Encoding. -/

/-- Every well-formed instruction, with every operand at every value, is decoded from its own bytes
(`30_encoding.md` R140, R161, R165). -/
def Obligations.DecodeEncodeAgree : Prop :=
  ∀ i : Instr, i.wf = true → decodeBytes (wordBytes (encode i)) = .instr i

/-- Every word that decodes to an instruction is the word of that instruction, and of a well-formed
one: no don't-care bit is dropped (R165, R170). -/
def Obligations.EncodeDecodeAgree : Prop :=
  ∀ (w : Word) (i : Instr), decodeWord w = .instr i → encode i = w ∧ i.wf = true

/-- Some words the spec writes out, with the instruction it says each is; and some it calls reserved
(`40_integer.md` to `45_privileged.md`, R170). -/
def Obligations.SampleWordsDecode : Prop :=
  decodeTableWord 32 0x001039AC = some (.addW 12 13 14) ∧
  decodeTableWord 32 0x02BFC063 = some (.addiW 3 3 0xFF0) ∧
  decodeTableWord 32 0x004089AC = some (.slliW 12 13 2) ∧
  decodeTableWord 32 0x142468AC = some (.lu12iW 12 0x12345) ∧
  decodeTableWord 32 0x002039AC = some (.divW 12 13 14) ∧
  decodeTableWord 32 0x53FFF7FF = some (.b 0x3FFFFFD) ∧
  decodeTableWord 32 0x4C000981 = some (.jirl 1 12 2) ∧
  decodeTableWord 32 0x29801061 = some (.stW 1 3 4) ∧
  decodeTableWord 32 0x2000088D = some (.llW 13 4 2) ∧
  decodeTableWord 32 0x002B0011 = some (.syscall 0x11) ∧
  decodeTableWord 32 0x00006180 = some (.rdcntid 12) ∧
  decodeTableWord 32 0x040001AC = some (.csrxchg 12 13 0) ∧
  decodeTableWord 32 0x0649B585 = some (.invtlb 5 12 13) ∧
  decodeTableWord 32 0x06498007 = none ∧
  decodeTableWord 32 0x06483801 = none ∧
  decodeTableWord 32 0x00000000 = none

/-- A fetched word that is no instruction raises INE, at every privilege level, with ERA = its address
and nothing else recorded (`60_exceptions.md` R409). -/
def Obligations.UndefinedWordRaisesIne : Prop :=
  ∀ (s : State) (w : Word), Quiet s → Fetches s w → (∀ i : Instr, i.wf = true → encode i ≠ w) →
    StepTraps 0xD 0 none none s

/-! Integer instructions. -/

/-- ADD.W, SUB.W, ADDI.W: sum and difference modulo 2^32, and nothing else (`40_integer.md` R201,
R202, R203). -/
def Obligations.AddSubtract : Prop :=
  ∀ (s : State) (rd rj rk : Reg) (si12 : BitVec 12),
    (Row (.addW rd rj rk) 0x00100000 0xFFFF8000 ∧
      Computes (.addW rd rj rk) rd s fun v =>
        v.toNat = ((s.reg rj).toNat + (s.reg rk).toNat) % 2 ^ 32) ∧
    (Row (.subW rd rj rk) 0x00110000 0xFFFF8000 ∧
      Computes (.subW rd rj rk) rd s fun v =>
        v.toNat = ((s.reg rj).toNat + 2 ^ 32 - (s.reg rk).toNat) % 2 ^ 32) ∧
    (Row (.addiW rd rj si12) 0x02800000 0xFFC00000 ∧
      Computes (.addiW rd rj si12) rd s fun v =>
        (v.toNat : Int) = (((s.reg rj).toNat : Int) + si12.toInt) % 2 ^ 32)

/-- SLT, SLTU, SLTI, SLTUI: 1 or 0; SLTUI's immediate is sign-extended, then read as unsigned
(R204 to R207). -/
def Obligations.SetLess : Prop :=
  ∀ (s : State) (rd rj rk : Reg) (si12 : BitVec 12),
    (Row (.slt rd rj rk) 0x00120000 0xFFFF8000 ∧
      Computes (.slt rd rj rk) rd s fun v =>
        v.toNat = if (s.reg rj).toInt < (s.reg rk).toInt then 1 else 0) ∧
    (Row (.sltu rd rj rk) 0x00128000 0xFFFF8000 ∧
      Computes (.sltu rd rj rk) rd s fun v =>
        v.toNat = if (s.reg rj).toNat < (s.reg rk).toNat then 1 else 0) ∧
    (Row (.slti rd rj si12) 0x02000000 0xFFC00000 ∧
      Computes (.slti rd rj si12) rd s fun v =>
        v.toNat = if (s.reg rj).toInt < si12.toInt then 1 else 0) ∧
    (Row (.sltui rd rj si12) 0x02400000 0xFFC00000 ∧
      Computes (.sltui rd rj si12) rd s fun v =>
        v.toNat = if ((s.reg rj).toNat : Int) < si12.toInt % 2 ^ 32 then 1 else 0)

/-- AND, OR, NOR, XOR, ANDN, ORN, bit by bit; ANDN and ORN complement rk (R208 to R213). -/
def Obligations.LogicRegister : Prop :=
  ∀ (s : State) (rd rj rk : Reg),
    (Row (.and rd rj rk) 0x00148000 0xFFFF8000 ∧
      Computes (.and rd rj rk) rd s fun v =>
        ∀ k, k < 32 → v.getLsbD k = ((s.reg rj).getLsbD k && (s.reg rk).getLsbD k)) ∧
    (Row (.or rd rj rk) 0x00150000 0xFFFF8000 ∧
      Computes (.or rd rj rk) rd s fun v =>
        ∀ k, k < 32 → v.getLsbD k = ((s.reg rj).getLsbD k || (s.reg rk).getLsbD k)) ∧
    (Row (.nor rd rj rk) 0x00140000 0xFFFF8000 ∧
      Computes (.nor rd rj rk) rd s fun v =>
        ∀ k, k < 32 → v.getLsbD k = !((s.reg rj).getLsbD k || (s.reg rk).getLsbD k)) ∧
    (Row (.xor rd rj rk) 0x00158000 0xFFFF8000 ∧
      Computes (.xor rd rj rk) rd s fun v =>
        ∀ k, k < 32 → v.getLsbD k = ((s.reg rj).getLsbD k != (s.reg rk).getLsbD k)) ∧
    (Row (.andn rd rj rk) 0x00168000 0xFFFF8000 ∧
      Computes (.andn rd rj rk) rd s fun v =>
        ∀ k, k < 32 → v.getLsbD k = ((s.reg rj).getLsbD k && !(s.reg rk).getLsbD k)) ∧
    (Row (.orn rd rj rk) 0x00160000 0xFFFF8000 ∧
      Computes (.orn rd rj rk) rd s fun v =>
        ∀ k, k < 32 → v.getLsbD k = ((s.reg rj).getLsbD k || !(s.reg rk).getLsbD k))

/-- ANDI, ORI, XORI with the zero-extended immediate: its bits from 12 on are 0 (R214, R215, R216). -/
def Obligations.LogicImmediate : Prop :=
  ∀ (s : State) (rd rj : Reg) (ui12 : BitVec 12),
    (Row (.andi rd rj ui12) 0x03400000 0xFFC00000 ∧
      Computes (.andi rd rj ui12) rd s fun v =>
        ∀ k, k < 32 → v.getLsbD k = ((s.reg rj).getLsbD k && (decide (k < 12) && ui12.getLsbD k))) ∧
    (Row (.ori rd rj ui12) 0x03800000 0xFFC00000 ∧
      Computes (.ori rd rj ui12) rd s fun v =>
        ∀ k, k < 32 → v.getLsbD k = ((s.reg rj).getLsbD k || (decide (k < 12) && ui12.getLsbD k))) ∧
    (Row (.xori rd rj ui12) 0x03C00000 0xFFC00000 ∧
      Computes (.xori rd rj ui12) rd s fun v =>
        ∀ k, k < 32 → v.getLsbD k = ((s.reg rj).getLsbD k != (decide (k < 12) && ui12.getLsbD k)))

/-- SLL.W, SRL.W, SRA.W by the low five bits of x[rk]: a multiplication, a division, and a division of
the signed value rounded down (R217, R218, R219). -/
def Obligations.ShiftByRegister : Prop :=
  ∀ (s : State) (rd rj rk : Reg),
    (Row (.sllW rd rj rk) 0x00170000 0xFFFF8000 ∧
      Computes (.sllW rd rj rk) rd s fun v =>
        v.toNat = (s.reg rj).toNat * 2 ^ ((s.reg rk).toNat % 32) % 2 ^ 32) ∧
    (Row (.srlW rd rj rk) 0x00178000 0xFFFF8000 ∧
      Computes (.srlW rd rj rk) rd s fun v =>
        v.toNat = (s.reg rj).toNat / 2 ^ ((s.reg rk).toNat % 32)) ∧
    (Row (.sraW rd rj rk) 0x00180000 0xFFFF8000 ∧
      Computes (.sraW rd rj rk) rd s fun v =>
        v.toInt = (s.reg rj).toInt / 2 ^ ((s.reg rk).toNat % 32))

/-- SLLI.W, SRLI.W, SRAI.W (R220, R221, R222). -/
def Obligations.ShiftByImmediate : Prop :=
  ∀ (s : State) (rd rj : Reg) (ui5 : BitVec 5),
    (Row (.slliW rd rj ui5) 0x00408000 0xFFFF8000 ∧
      Computes (.slliW rd rj ui5) rd s fun v =>
        v.toNat = (s.reg rj).toNat * 2 ^ ui5.toNat % 2 ^ 32) ∧
    (Row (.srliW rd rj ui5) 0x00448000 0xFFFF8000 ∧
      Computes (.srliW rd rj ui5) rd s fun v => v.toNat = (s.reg rj).toNat / 2 ^ ui5.toNat) ∧
    (Row (.sraiW rd rj ui5) 0x00488000 0xFFFF8000 ∧
      Computes (.sraiW rd rj ui5) rd s fun v => v.toInt = (s.reg rj).toInt / 2 ^ ui5.toNat)

/-- LU12I.W, and PCADDU12I relative to its own address (R223, R224). -/
def Obligations.UpperImmediate : Prop :=
  ∀ (s : State) (rd : Reg) (si20 : BitVec 20),
    (Row (.lu12iW rd si20) 0x14000000 0xFE000000 ∧
      Computes (.lu12iW rd si20) rd s fun v => v.toNat = si20.toNat * 2 ^ 12) ∧
    (Row (.pcaddu12i rd si20) 0x1C000000 0xFE000000 ∧
      Computes (.pcaddu12i rd si20) rd s fun v =>
        v.toNat = (s.pc.toNat + si20.toNat * 2 ^ 12) % 2 ^ 32)

/-! Multiplication and division. -/

/-- MUL.W, MULH.W, MULH.WU: the low word, and the high word of the exact product (`41_muldiv.md` R241,
R242, R243). -/
def Obligations.Multiply : Prop :=
  ∀ (s : State) (rd rj rk : Reg),
    (Row (.mulW rd rj rk) 0x001C0000 0xFFFF8000 ∧
      Computes (.mulW rd rj rk) rd s fun v =>
        (v.toNat : Int) = (s.reg rj).toInt * (s.reg rk).toInt % 2 ^ 32) ∧
    (Row (.mulhW rd rj rk) 0x001C8000 0xFFFF8000 ∧
      Computes (.mulhW rd rj rk) rd s fun v =>
        v.toInt = (s.reg rj).toInt * (s.reg rk).toInt / 2 ^ 32) ∧
    (Row (.mulhWu rd rj rk) 0x001D0000 0xFFFF8000 ∧
      Computes (.mulhWu rd rj rk) rd s fun v =>
        v.toNat = (s.reg rj).toNat * (s.reg rk).toNat / 2 ^ 32)

/-- DIV.W, MOD.W, DIV.WU, MOD.WU: for a divisor that is not 0, the quotient cut toward zero and the
remainder with the sign of the dividend, both cut to 32 bits, which is the overflow case of R250 c; for
divisor 0, some value, of which nothing is said. They raise nothing (`41_muldiv.md` R244 to R247,
R250). -/
def Obligations.DivideAndRemainder : Prop :=
  ∀ (s : State) (rd rj rk : Reg),
    (Row (.divW rd rj rk) 0x00200000 0xFFFF8000 ∧ Row (.modW rd rj rk) 0x00208000 0xFFFF8000 ∧
      Row (.divWu rd rj rk) 0x00210000 0xFFFF8000 ∧ Row (.modWu rd rj rk) 0x00218000 0xFFFF8000) ∧
    (s.reg rk ≠ 0#32 →
      (Computes (.divW rd rj rk) rd s fun v =>
        ∃ q r, TruncatedDivision (s.reg rj).toInt (s.reg rk).toInt q r ∧
          (v.toNat : Int) = q % 2 ^ 32) ∧
      (Computes (.modW rd rj rk) rd s fun v =>
        ∃ q r, TruncatedDivision (s.reg rj).toInt (s.reg rk).toInt q r ∧
          (v.toNat : Int) = r % 2 ^ 32) ∧
      (Computes (.divWu rd rj rk) rd s fun v =>
        v.toNat * (s.reg rk).toNat ≤ (s.reg rj).toNat ∧
          (s.reg rj).toNat < (v.toNat + 1) * (s.reg rk).toNat) ∧
      (Computes (.modWu rd rj rk) rd s fun v =>
        v.toNat < (s.reg rk).toNat ∧
          ∃ q, (s.reg rj).toNat = q * (s.reg rk).toNat + v.toNat)) ∧
    (s.reg rk = 0#32 →
      ComputesUnspecified (.divW rd rj rk) rd s ∧ ComputesUnspecified (.modW rd rj rk) rd s ∧
        ComputesUnspecified (.divWu rd rj rk) rd s ∧ ComputesUnspecified (.modWu rd rj rk) rd s)

/-! Branches and jumps. -/

/-- The six conditional branches: taken to a place relative to the branch itself, else to the next
instruction, and nothing but the pc changes. The first operand stands in bits 9:5 of each word, the
second in bits 4:0 (`42_branch_jump.md` R261 to R266). -/
def Obligations.ConditionalBranches : Prop :=
  ∀ (s : State) (rj rd : Reg) (offs16 : BitVec 16),
    (Row (.beq rj rd offs16) 0x58000000 0xFC000000 ∧
      (encode (.beq rj rd offs16)).extractLsb' 5 5 = rj ∧
      (encode (.beq rj rd offs16)).extractLsb' 0 5 = rd ∧
      Transfers (.beq rj rd offs16) s
        (if s.reg rj = s.reg rd then wordsFrom s.pc offs16 else s.pc + 4#32)) ∧
    (Row (.bne rj rd offs16) 0x5C000000 0xFC000000 ∧
      (encode (.bne rj rd offs16)).extractLsb' 5 5 = rj ∧
      (encode (.bne rj rd offs16)).extractLsb' 0 5 = rd ∧
      Transfers (.bne rj rd offs16) s
        (if s.reg rj ≠ s.reg rd then wordsFrom s.pc offs16 else s.pc + 4#32)) ∧
    (Row (.blt rj rd offs16) 0x60000000 0xFC000000 ∧
      (encode (.blt rj rd offs16)).extractLsb' 5 5 = rj ∧
      (encode (.blt rj rd offs16)).extractLsb' 0 5 = rd ∧
      Transfers (.blt rj rd offs16) s
        (if (s.reg rj).toInt < (s.reg rd).toInt then wordsFrom s.pc offs16 else s.pc + 4#32)) ∧
    (Row (.bge rj rd offs16) 0x64000000 0xFC000000 ∧
      (encode (.bge rj rd offs16)).extractLsb' 5 5 = rj ∧
      (encode (.bge rj rd offs16)).extractLsb' 0 5 = rd ∧
      Transfers (.bge rj rd offs16) s
        (if (s.reg rj).toInt ≥ (s.reg rd).toInt then wordsFrom s.pc offs16 else s.pc + 4#32)) ∧
    (Row (.bltu rj rd offs16) 0x68000000 0xFC000000 ∧
      (encode (.bltu rj rd offs16)).extractLsb' 5 5 = rj ∧
      (encode (.bltu rj rd offs16)).extractLsb' 0 5 = rd ∧
      Transfers (.bltu rj rd offs16) s
        (if (s.reg rj).toNat < (s.reg rd).toNat then wordsFrom s.pc offs16 else s.pc + 4#32)) ∧
    (Row (.bgeu rj rd offs16) 0x6C000000 0xFC000000 ∧
      (encode (.bgeu rj rd offs16)).extractLsb' 5 5 = rj ∧
      (encode (.bgeu rj rd offs16)).extractLsb' 0 5 = rd ∧
      Transfers (.bgeu rj rd offs16) s
        (if (s.reg rj).toNat ≥ (s.reg rd).toNat then wordsFrom s.pc offs16 else s.pc + 4#32))

/-- B, BL (the link is r1) and JIRL (the target uses x[rj] from before the link is written); the two
parts of offs26 stand in the word as R267 says (R267, R268, R269). -/
def Obligations.Jumps : Prop :=
  ∀ (s : State) (rd rj : Reg) (offs16 : BitVec 16) (offs26 : BitVec 26),
    (Row (.b offs26) 0x50000000 0xFC000000 ∧
      offs26 = (encode (.b offs26)).extractLsb' 0 10 ++ (encode (.b offs26)).extractLsb' 10 16 ∧
      Transfers (.b offs26) s (wordsFrom s.pc offs26)) ∧
    (Row (.bl offs26) 0x54000000 0xFC000000 ∧
      LinksAndJumps (.bl offs26) 1#5 s (wordsFrom s.pc offs26)) ∧
    (Row (.jirl rd rj offs16) 0x4C000000 0xFC000000 ∧
      LinksAndJumps (.jirl rd rj offs16) rd s (wordsFrom (s.reg rj) offs16))

/-- A JIRL to a place that is not a multiple of 4 completes; the next step raises ADEF with ERA and
BADV = that place (`42_branch_jump.md` R271). -/
def Obligations.MisalignedJumpTarget : Prop :=
  ∀ (s : State) (rd rj : Reg) (offs16 : BitVec 16),
    Quiet s → (wordsFrom (s.reg rj) offs16).toNat % 4 ≠ 0 →
    ∃ t, exec (.jirl rd rj offs16) s = .next t ∧ WritesReg rd (s.pc + 4#32) s t ∧
      t.pc = wordsFrom (s.reg rj) offs16 ∧
      StepTraps 0x8 0 (some (wordsFrom (s.reg rj) offs16)) none t

/-! Loads and stores. -/

/-- The addresses of loads and stores: base plus the sign-extended immediate, four times it for LL.W
and SC.W, modulo 2^32 (`43_load_store.md` R280). -/
def Obligations.EffectiveAddress : Prop :=
  ∀ (s : State) (rj : Reg) (si12 : BitVec 12) (si14 : BitVec 14),
    ((dataAddress rj si12 s).toNat : Int) = (((s.reg rj).toNat : Int) + si12.toInt) % 2 ^ 32 ∧
    ((linkAddress rj si14 s).toNat : Int) = (((s.reg rj).toNat : Int) + 4 * si14.toInt) % 2 ^ 32

/-- LD.B, LD.H, LD.W, LD.BU, LD.HU: the little-endian value at the physical address, sign- or
zero-extended; a misaligned halfword or word address raises ALE (R281 to R285). -/
def Obligations.Loads : Prop :=
  ∀ (s : State) (rd rj : Reg) (si12 : BitVec 12) (pa : Word),
    (Row (.ldB rd rj si12) 0x28000000 0xFFC00000 ∧
      (Reaches .load 1 (dataAddress rj si12 s) pa s →
        Computes (.ldB rd rj si12) rd s fun v => v.toInt = (s.byteAt pa).toInt)) ∧
    (Row (.ldBu rd rj si12) 0x2A000000 0xFFC00000 ∧
      (Reaches .load 1 (dataAddress rj si12 s) pa s →
        Computes (.ldBu rd rj si12) rd s fun v => v.toNat = (s.byteAt pa).toNat)) ∧
    (Row (.ldH rd rj si12) 0x28400000 0xFFC00000 ∧
      (Reaches .load 2 (dataAddress rj si12 s) pa s →
        Computes (.ldH rd rj si12) rd s fun v => v.toInt = (halfAt s pa : Int).bmod (2 ^ 16)) ∧
      ((dataAddress rj si12 s).toNat % 2 ≠ 0 →
        Traps (.ldH rd rj si12) 0x9 0 (some (dataAddress rj si12 s)) none s)) ∧
    (Row (.ldHu rd rj si12) 0x2A400000 0xFFC00000 ∧
      (Reaches .load 2 (dataAddress rj si12 s) pa s →
        Computes (.ldHu rd rj si12) rd s fun v => v.toNat = halfAt s pa) ∧
      ((dataAddress rj si12 s).toNat % 2 ≠ 0 →
        Traps (.ldHu rd rj si12) 0x9 0 (some (dataAddress rj si12 s)) none s)) ∧
    (Row (.ldW rd rj si12) 0x28800000 0xFFC00000 ∧
      (Reaches .load 4 (dataAddress rj si12 s) pa s →
        Computes (.ldW rd rj si12) rd s fun v => v.toNat = wordAt s pa) ∧
      ((dataAddress rj si12 s).toNat % 4 ≠ 0 →
        Traps (.ldW rd rj si12) 0x9 0 (some (dataAddress rj si12 s)) none s))

/-- ST.B, ST.H, ST.W: the low bytes of x[rd], lowest first, and no other byte; no register and not
LLbit; a misaligned halfword or word address raises ALE (R286, R287, R288). -/
def Obligations.Stores : Prop :=
  ∀ (s : State) (rd rj : Reg) (si12 : BitVec 12) (pa : Word),
    (Row (.stB rd rj si12) 0x29000000 0xFFC00000 ∧
      (Reaches .store 1 (dataAddress rj si12 s) pa s →
        Machine.Stores (.stB rd rj si12) pa (littleEndian 1 (s.reg rd).toNat) s)) ∧
    (Row (.stH rd rj si12) 0x29400000 0xFFC00000 ∧
      (Reaches .store 2 (dataAddress rj si12 s) pa s →
        Machine.Stores (.stH rd rj si12) pa (littleEndian 2 (s.reg rd).toNat) s) ∧
      ((dataAddress rj si12 s).toNat % 2 ≠ 0 →
        Traps (.stH rd rj si12) 0x9 0 (some (dataAddress rj si12 s)) none s)) ∧
    (Row (.stW rd rj si12) 0x29800000 0xFFC00000 ∧
      (Reaches .store 4 (dataAddress rj si12 s) pa s →
        Machine.Stores (.stW rd rj si12) pa (littleEndian 4 (s.reg rd).toNat) s) ∧
      ((dataAddress rj si12 s).toNat % 4 ≠ 0 →
        Traps (.stW rd rj si12) 0x9 0 (some (dataAddress rj si12 s)) none s))

/-- LL.W loads the word and sets LLbit; where its translation raises an exception it enters that trap,
and where its address is misaligned the ALE trap: both leave LLbit, the registers and memory (R295). -/
def Obligations.LoadLinked : Prop :=
  ∀ (s : State) (rd rj : Reg) (si14 : BitVec 14) (pa : Word),
    Row (.llW rd rj si14) 0x20000000 0xFF000000 ∧
    (Reaches .load 4 (linkAddress rj si14 s) pa s →
      ∃ t v, exec (.llW rd rj si14) s = .next t ∧ v.toNat = wordAt s pa ∧ WritesReg rd v s t ∧
        t.llbit = true ∧ Advances s t ∧ SameMem s t ∧ t.draws = s.draws ∧ SameSystem s t) ∧
    (∀ x, (linkAddress rj si14 s).toNat % 4 = 0 →
      Sys2Proof.Machine.translate .load (linkAddress rj si14 s) s = .trap x →
      Traps (.llW rd rj si14) x.ecode.toNat x.esubcode.toNat x.badAddress x.pageAddress s) ∧
    ((linkAddress rj si14 s).toNat % 4 ≠ 0 →
      Traps (.llW rd rj si14) 0x9 0 (some (linkAddress rj si14 s)) none s)

/-- SC.W: with LLbit 1 it stores the old x[rd], writes 1 and clears LLbit; with LLbit 0 it writes 0
and makes no access, whatever the address is; the alignment is checked first in either case; an
exception of the store changes neither x[rd] nor LLbit (R296). -/
def Obligations.StoreConditional : Prop :=
  ∀ (s : State) (rd rj : Reg) (si14 : BitVec 14) (pa : Word),
    Row (.scW rd rj si14) 0x21000000 0xFF000000 ∧
    (s.llbit = true → Reaches .store 4 (linkAddress rj si14 s) pa s →
      ∃ t, exec (.scW rd rj si14) s = .next t ∧ WritesReg rd 1#32 s t ∧
        StoredBytes pa (littleEndian 4 (s.reg rd).toNat) s t ∧ t.llbit = false ∧ Advances s t ∧
        t.draws = s.draws ∧ SameSystem s t) ∧
    (s.llbit = false → (linkAddress rj si14 s).toNat % 4 = 0 →
      Computes (.scW rd rj si14) rd s fun v => v = 0#32) ∧
    (∀ x, s.llbit = true → (linkAddress rj si14 s).toNat % 4 = 0 →
      Sys2Proof.Machine.translate .store (linkAddress rj si14 s) s = .trap x →
      ∃ t, exec (.scW rd rj si14) s = .next t ∧ t.llbit = s.llbit ∧ SameRegs s t ∧ SameMem s t) ∧
    ((linkAddress rj si14 s).toNat % 4 ≠ 0 →
      Traps (.scW rd rj si14) 0x9 0 (some (linkAddress rj si14 s)) none s)

/-- PRELD, DBAR, IBAR and, at PLV0, CACOP change nothing but the pc, whatever their hint, code and
address are; CACOP elsewhere raises IPE (R299, `44_barrier_system_time.md` R310, R311,
`45_privileged.md` R340). -/
def Obligations.NoEffectInstructions : Prop :=
  ∀ (s : State) (op rj : Reg) (si12 : BitVec 12) (hint : BitVec 15),
    (Row (.preld op rj si12) 0x2AC00000 0xFFC00000 ∧ Skips (.preld op rj si12) s) ∧
    (Row (.dbar hint) 0x38720000 0xFFFF8000 ∧ Skips (.dbar hint) s) ∧
    (Row (.ibar hint) 0x38728000 0xFFFF8000 ∧ Skips (.ibar hint) s) ∧
    (Row (.cacop op rj si12) 0x06000000 0xFFC00000 ∧
      (s.csr.crmd.plv = 0#2 → Skips (.cacop op rj si12) s) ∧
      ChecksPrivilege (.cacop op rj si12) s)

/-- The bytes that a ST.W stores are the ones that later loads at its address and inside its word see,
lowest byte first (`20_memory.md` R82, R110). -/
def Obligations.StoreThenLoad : Prop :=
  ∀ (s t : State) (rd rj : Reg) (si12 : BitVec 12) (va : Word),
    DirectMode s → va = dataAddress rj si12 s → va.toNat % 4 = 0 → Backed 4 va s →
    exec (.stW rd rj si12) s = .next t →
    ∀ (rd' rj' : Reg) (si12' : BitVec 12) (k : Nat),
      dataAddress rj' si12' t = va + BitVec.ofNat 32 k →
      (k < 4 → Computes (.ldBu rd' rj' si12') rd' t fun v =>
        v.toNat = (s.reg rd).toNat / 2 ^ (8 * k) % 2 ^ 8) ∧
      (k = 0 ∨ k = 2 → Computes (.ldHu rd' rj' si12') rd' t fun v =>
        v.toNat = (s.reg rd).toNat / 2 ^ (8 * k) % 2 ^ 16) ∧
      (k = 0 → Computes (.ldW rd' rj' si12') rd' t fun v => v = s.reg rd)

/-! System calls and time. -/

/-- SYSCALL and BREAK raise SYS and BRK at every privilege level, whatever the code is; ERA is their
own address and BADV is not written (`44_barrier_system_time.md` R315, R316). -/
def Obligations.SyscallBreak : Prop :=
  ∀ (s : State) (code : BitVec 15),
    (Row (.syscall code) 0x002B0000 0xFFFF8000 ∧ Traps (.syscall code) 0xB 0 none none s) ∧
    (Row (.brk code) 0x002A0000 0xFFFF8000 ∧ Traps (.brk code) 0xC 0 none none s)

/-- RDCNTVL.W and RDCNTVH.W read the halves of the Stable Counter; RDCNTID writes rj, with CSR.TID, at
every privilege level (R320, R321, R322). -/
def Obligations.ReadCounter : Prop :=
  ∀ (s : State) (rd rj : Reg),
    (Row (.rdcntvlW rd) 0x00006000 0xFFFFFFE0 ∧
      Computes (.rdcntvlW rd) rd s fun v => v.toNat = s.stableCounter.toNat % 2 ^ 32) ∧
    (Row (.rdcntvhW rd) 0x00006400 0xFFFFFFE0 ∧
      Computes (.rdcntvhW rd) rd s fun v => v.toNat = s.stableCounter.toNat / 2 ^ 32) ∧
    (Row (.rdcntid rj) 0x00006000 0xFFFFFC1F ∧
      Computes (.rdcntid rj) rj s fun v => v = csrRead 0x40#14 s)

/-! Privileged instructions. -/

/-- Each of the eleven privileged instructions, executed at a level other than PLV0, raises IPE with
no effect of its own; an INVTLB is one of them for the ops that are instructions
(`60_exceptions.md` R410). -/
def Obligations.PrivilegedIpe : Prop :=
  ∀ (s : State) (a b : Reg) (csr : BitVec 14) (si12 : BitVec 12) (hint : BitVec 15),
    s.csr.crmd.plv ≠ 0#2 →
    (Traps (.csrrd a csr) 0xE 0 none none s ∧ Traps (.csrwr a csr) 0xE 0 none none s ∧
      Traps (.csrxchg a b csr) 0xE 0 none none s ∧ Traps (.cacop a b si12) 0xE 0 none none s ∧
      Traps .tlbsrch 0xE 0 none none s ∧ Traps .tlbrd 0xE 0 none none s ∧
      Traps .tlbwr 0xE 0 none none s ∧ Traps .tlbfill 0xE 0 none none s ∧
      Traps .ertn 0xE 0 none none s ∧ Traps (.idle hint) 0xE 0 none none s) ∧
    ∀ op : BitVec 5, op.toNat ≤ 6 → Traps (.invtlb op a b) 0xE 0 none none s

/-- CSRRD gives the register's value, assembled from its fields in the places that `10_state.md` R32
to R57 give them, and changes no CSR (`45_privileged.md` R330). -/
def Obligations.CsrReadLayout : Prop :=
  ∀ (s : State) (rd : Reg) (csr : BitVec 14),
    Row (.csrrd rd csr) 0x04000000 0xFF0003E0 ∧ ChecksPrivilege (.csrrd rd csr) s ∧
    (s.csr.crmd.plv = 0#2 →
      Computes (.csrrd rd csr) rd s fun v => v.toNat = csrValue csr.toNat s)

/-- CSRWR and CSRXCHG of a CSR that only stores: exactly the writable bits under the mask take the new
value, x[rd] takes the old one, and no other CSR changes but PGD, which shows others
(`45_privileged.md` R331, R332, R333). -/
def Obligations.CsrStorageWrite : Prop :=
  ∀ (s : State) (rd rj : Reg) (csr : BitVec 14) (rw : Word),
    (csr, rw) ∈ storageCsrs → s.csr.crmd.plv = 0#2 →
    (Row (.csrwr rd csr) 0x04000020 0xFF0003E0 ∧
      ∃ t, exec (.csrwr rd csr) s = .next t ∧ SwapsCsr rd csr [csr, 0x1B#14] s t ∧
        SameOutside s t ∧
        csrRead csr t = maskedWrite (csrRead csr s) (s.reg rd) 0xFFFFFFFF#32 rw) ∧
    (Row (.csrxchg rd rj csr) 0x04000000 0xFF000000 ∧
      ∃ t, exec (.csrxchg rd rj csr) s = .next t ∧ SwapsCsr rd csr [csr, 0x1B#14] s t ∧
        SameOutside s t ∧
        csrRead csr t = maskedWrite (csrRead csr s) (s.reg rd) (s.reg rj) rw)

/-- A CSR number that is not defined reads 0 and a write to it changes nothing (`10_state.md` R57). A
write to EUEN, PGD, CPUID, TVAL or CTAG, which have no writable field, changes nothing either, and x[rd]
takes their value (R58, `45_privileged.md` R333 f and h; that they are no fields of State: assumption
log 16). -/
def Obligations.CsrWithoutFields : Prop :=
  ∀ (s : State) (rd rj : Reg) (csr : BitVec 14), s.csr.crmd.plv = 0#2 →
    (csr ∉ writableCsrs →
      (Computes (.csrwr rd csr) rd s fun v => v = csrRead csr s) ∧
      (Computes (.csrxchg rd rj csr) rd s fun v => v = csrRead csr s)) ∧
    (csr ∉ definedCsrs →
      (Computes (.csrrd rd csr) rd s fun v => v = 0#32) ∧
      (Computes (.csrwr rd csr) rd s fun v => v = 0#32) ∧
      (Computes (.csrxchg rd rj csr) rd s fun v => v = 0#32))

/-- A 1 written to TICLR.CLR clears ESTAT.IS[11]; a 1 written to LLBCTL.WCLLB clears LLbit, and KLO
takes the bit written; nothing else changes (`10_state.md` R52, R53, `45_privileged.md` R333 c, e). -/
def Obligations.CsrActions : Prop :=
  ∀ (s : State) (rd rj : Reg), s.csr.crmd.plv = 0#2 →
    (∃ t, exec (.csrwr rd 0x44#14) s = .next t ∧ SwapsCsr rd 0x44#14 [0x5#14] s t ∧ SameOutside s t ∧
      csrRead 0x5#14 t =
        if (s.reg rd).getLsbD 0 then csrRead 0x5#14 s &&& ~~~0x800#32 else csrRead 0x5#14 s) ∧
    (∃ t, exec (.csrxchg rd rj 0x44#14) s = .next t ∧ SwapsCsr rd 0x44#14 [0x5#14] s t ∧ SameOutside s t ∧
      csrRead 0x5#14 t =
        if (s.reg rd).getLsbD 0 ∧ (s.reg rj).getLsbD 0 then csrRead 0x5#14 s &&& ~~~0x800#32
        else csrRead 0x5#14 s) ∧
    (∃ t, exec (.csrwr rd 0x60#14) s = .next t ∧ SwapsCsr rd 0x60#14 [0x60#14] s t ∧ SameOutside s t ∧
      t.llbit = (s.llbit && !(s.reg rd).getLsbD 1) ∧ t.csr.klo = (s.reg rd).getLsbD 2) ∧
    (∃ t, exec (.csrxchg rd rj 0x60#14) s = .next t ∧ SwapsCsr rd 0x60#14 [0x60#14] s t ∧
      SameOutside s t ∧
      t.llbit = (s.llbit && !((s.reg rd).getLsbD 1 && (s.reg rj).getLsbD 1)) ∧
      t.csr.klo = if (s.reg rj).getLsbD 2 then (s.reg rd).getLsbD 2 else s.csr.klo)

/-- A write to TCFG sets En, Periodic and the N - 2 bits of InitVal, and loads the timer: with En it
counts from {InitVal, 2'b0}, without it stops where it is (`45_privileged.md` R333 d,
`60_exceptions.md` R444). CSRXCHG with an empty mask loads it too (assumption log 25). -/
def Obligations.CsrTimerConfiguration : Prop :=
  ∀ (s : State) (rd rj : Reg), Invariant s → s.csr.crmd.plv = 0#2 →
    ∀ (i : Instr) (w : Word),
      (i = .csrwr rd 0x41#14 ∧ w = s.reg rd ∨
        i = .csrxchg rd rj 0x41#14 ∧
          w = maskedWrite (csrRead 0x41#14 s) (s.reg rd) (s.reg rj) 0xFFFFFFFF#32) →
      ∃ t, exec i s = .next t ∧ SwapsCsr rd 0x41#14 [0x41#14, 0x42#14] s t ∧
        t.csr.tcfg.en = w.getLsbD 0 ∧ t.csr.tcfg.periodic = w.getLsbD 1 ∧
        t.csr.tcfg.initVal.toNat = w.toNat % 2 ^ s.params.timerBits / 4 ∧
        t.timerRunning = t.csr.tcfg.en ∧
        t.timerCnt.toNat =
          (if t.csr.tcfg.en then 4 * t.csr.tcfg.initVal.toNat else s.timerCnt.toNat) ∧
        t.stableCounter = s.stableCounter ∧ t.idleWait = s.idleWait ∧ t.hwi = s.hwi ∧
        t.ipi = s.ipi ∧ t.inputs = s.inputs ∧ t.params = s.params

/-- A write to TLBIDX stores NE, PS and as many bits of Index as number the TLB's entries
(`10_state.md` R40). -/
def Obligations.CsrTlbIndex : Prop :=
  ∀ (s : State) (rd rj : Reg) (n : Nat), Invariant s → s.csr.crmd.plv = 0#2 →
    IsCeilLog2 n s.tlb.length →
    (∃ t, exec (.csrwr rd 0x10#14) s = .next t ∧ SwapsCsr rd 0x10#14 [0x10#14] s t ∧ SameOutside s t ∧
      csrRead 0x10#14 t =
        maskedWrite (csrRead 0x10#14 s) (s.reg rd) 0xFFFFFFFF#32
          (0xBF000000#32 + BitVec.ofNat 32 (2 ^ n - 1))) ∧
    (∃ t, exec (.csrxchg rd rj 0x10#14) s = .next t ∧ SwapsCsr rd 0x10#14 [0x10#14] s t ∧
      SameOutside s t ∧
      csrRead 0x10#14 t =
        maskedWrite (csrRead 0x10#14 s) (s.reg rd) (s.reg rj)
          (0xBF000000#32 + BitVec.ofNat 32 (2 ^ n - 1)))

/-- IDLE at PLV0 advances the pc and sets the core waiting; elsewhere it raises IPE
(`45_privileged.md` R365). -/
def Obligations.Idle : Prop :=
  ∀ (s : State) (hint : BitVec 15),
    Row (.idle hint) 0x06488000 0xFFFF8000 ∧ ChecksPrivilege (.idle hint) s ∧
    (s.csr.crmd.plv = 0#2 →
      ∃ t, exec (.idle hint) s = .next t ∧ t.idleWait = true ∧ Advances s t ∧ SameRegs s t ∧
        SameMem s t ∧ t.llbit = s.llbit ∧ t.csr = s.csr ∧ t.tlb = s.tlb ∧ t.draws = s.draws ∧
        SameOutside { s with idleWait := true } t)

/-! The TLB instructions. -/

/-- TLBSRCH: a miss sets NE and leaves Index and PS; one hit gives its index and clears NE
(`45_privileged.md` R344). R344 gives no outcome for several hits: that they are refused is the
treatment of `93_implementation_defined.md` U1 as the model takes it, assumption log 12. -/
def Obligations.TlbSearch : Prop :=
  ∀ (s : State) (va : Word), va.toNat = s.csr.tlbehi.toNat * 2 ^ 13 →
    encode .tlbsrch = 0x06482800#32 ∧ ChecksPrivilege .tlbsrch s ∧
    (s.csr.crmd.plv = 0#2 →
      (NoneMatches s.tlb s.csr.asid va →
        ∃ t, SystemOnly .tlbsrch s t ∧ t.tlb = s.tlb ∧ t.draws = s.draws ∧
          t.csr = { s.csr with tlbidx := { s.csr.tlbidx with ne := true } }) ∧
      (∀ (i : Nat) (e : TlbEntry), i < 65536 → OnlyMatch s i e s.csr.asid va →
        ∃ t, SystemOnly .tlbsrch s t ∧ t.tlb = s.tlb ∧ t.draws = s.draws ∧
          t.csr.tlbidx.index.toNat = i ∧ t.csr.tlbidx.ne = false ∧
          t.csr.tlbidx.ps = s.csr.tlbidx.ps ∧ { t.csr with tlbidx := s.csr.tlbidx } = s.csr) ∧
      (SeveralMatch s s.csr.asid va → exec .tlbsrch s = .refused .tlbMultipleHit))

/-- TLBRD of an entry that exists brings its fields into TLBIDX, TLBEHI, TLBELO0, TLBELO1 and ASID; of
one that does not, sets NE and clears or leaves the rest as the implementation does, ASID and Index
unchanged (`45_privileged.md` R345). -/
def Obligations.TlbRead : Prop :=
  ∀ (s : State), encode .tlbrd = 0x06482C00#32 ∧ ChecksPrivilege .tlbrd s ∧
    ∀ e, s.csr.crmd.plv = 0#2 → s.tlb[s.csr.tlbidx.index.toNat]? = some e →
      ∃ t, SystemOnly .tlbrd s t ∧ t.tlb = s.tlb ∧ t.draws = s.draws ∧
        t.csr.tlbidx.index = s.csr.tlbidx.index ∧ t.csr.tlbidx.ne = !e.e ∧
        { t.csr with
          tlbidx := s.csr.tlbidx
          tlbehi := s.csr.tlbehi
          tlbelo0 := s.csr.tlbelo0
          tlbelo1 := s.csr.tlbelo1
          asid := s.csr.asid } = s.csr ∧
        (e.e = true →
          t.csr.tlbidx.ps = e.ps ∧ t.csr.tlbehi = e.vppn ∧ t.csr.asid = e.asid ∧
            (t.csr.tlbelo0.ppn = e.page0.ppn ∧ t.csr.tlbelo0.g = e.g ∧
              t.csr.tlbelo0.mat = e.page0.mat ∧ t.csr.tlbelo0.plv = e.page0.plv ∧
              t.csr.tlbelo0.d = e.page0.d ∧ t.csr.tlbelo0.v = e.page0.v) ∧
            (t.csr.tlbelo1.ppn = e.page1.ppn ∧ t.csr.tlbelo1.g = e.g ∧
              t.csr.tlbelo1.mat = e.page1.mat ∧ t.csr.tlbelo1.plv = e.page1.plv ∧
              t.csr.tlbelo1.d = e.page1.d ∧ t.csr.tlbelo1.v = e.page1.v)) ∧
        (e.e = false → t.csr.asid = s.csr.asid ∧
          if s.params.tlbrdInvalidClears then
            t.csr.tlbidx.ps = 0#6 ∧ csrRead 0x11#14 t = 0#32 ∧ csrRead 0x12#14 t = 0#32 ∧
              csrRead 0x13#14 t = 0#32
          else
            t.csr.tlbidx.ps = s.csr.tlbidx.ps ∧ t.csr.tlbehi = s.csr.tlbehi ∧
              t.csr.tlbelo0 = s.csr.tlbelo0 ∧ t.csr.tlbelo1 = s.csr.tlbelo1)

/-- TLBWR writes exactly the entry of TLBIDX.Index, from the TLB interface CSRs
(`45_privileged.md` R346, R348). -/
def Obligations.TlbWrite : Prop :=
  ∀ (s : State), encode .tlbwr = 0x06483000#32 ∧ ChecksPrivilege .tlbwr s ∧
    (s.csr.crmd.plv = 0#2 → s.csr.tlbidx.index.toNat < s.tlb.length →
      s.csr.tlbidx.ps.toNat ∈ s.params.legalPs →
      ∃ t, SystemOnly .tlbwr s t ∧ WritesEntry s.csr.tlbidx.index.toNat s t ∧ t.csr = s.csr ∧
        t.draws = s.draws)

/-- TLBFILL writes exactly one entry, of whose index nothing but the range is known, from the same CSRs
as TLBWR; Index is neither used nor changed (`45_privileged.md` R347, R348). -/
def Obligations.TlbFill : Prop :=
  ∀ (s : State), encode .tlbfill = 0x06483400#32 ∧ ChecksPrivilege .tlbfill s ∧
    (s.csr.crmd.plv = 0#2 → 1 ≤ s.tlb.length → s.csr.tlbidx.ps.toNat ∈ s.params.legalPs →
      ∃ t i, i < s.tlb.length ∧ SystemOnly .tlbfill s t ∧ WritesEntry i s t ∧ t.csr = s.csr)

/-- Where the TLB instructions stop at PLV0: a valid entry with a page size that no entry may hold,
and an Index that numbers no entry (`93_implementation_defined.md` U2, U5). An invalid entry is
written by TLBWR and by TLBFILL whatever the page size is: the model's choice, assumption log 11. -/
def Obligations.TlbWriteStops : Prop :=
  ∀ (s : State), s.csr.crmd.plv = 0#2 →
    (s.csr.tlbidx.index.toNat < s.tlb.length → IllegalPageSize s →
      exec .tlbwr s = .refused .tlbIllegalPageSize) ∧
    (1 ≤ s.tlb.length → IllegalPageSize s → exec .tlbfill s = .refused .tlbIllegalPageSize) ∧
    (s.tlb.length ≤ s.csr.tlbidx.index.toNat →
      exec .tlbwr s = .refused .tlbIndexOutOfRange ∧
        exec .tlbrd s = .refused .tlbIndexOutOfRange) ∧
    (s.csr.tlbidx.index.toNat < s.tlb.length → ¬ IllegalPageSize s →
      ∃ t, exec .tlbwr s = .next t ∧ WritesEntry s.csr.tlbidx.index.toNat s t) ∧
    (1 ≤ s.tlb.length → ¬ IllegalPageSize s →
      ∃ t i, i < s.tlb.length ∧ exec .tlbfill s = .next t ∧ WritesEntry i s t)

/-- INVTLB clears E of exactly the entries that its op names, for ops 0 to 6, and changes nothing else;
any other op is no instruction at any level (`45_privileged.md` R350). What 'VA equal' means, and how
op 6 groups its conditions, are the spec's own inferences there. -/
def Obligations.InvalidateTlb : Prop :=
  ∀ (s : State) (op : BitVec 5) (rj rk : Reg),
    Row (.invtlb op rj rk) 0x06498000 0xFFFF8000 ∧
    (6 < op.toNat → Traps (.invtlb op rj rk) 0xD 0 none none s) ∧
    (op.toNat ≤ 6 → ChecksPrivilege (.invtlb op rj rk) s) ∧
    (op.toNat ≤ 6 → s.csr.crmd.plv = 0#2 →
      ∃ t, SystemOnly (.invtlb op rj rk) s t ∧ t.csr = s.csr ∧ t.draws = s.draws ∧
        t.tlb.length = s.tlb.length ∧
        ∀ (j : Nat) (e : TlbEntry), s.tlb[j]? = some e →
          (InvtlbClears op.toNat ((s.reg rj).toNat % 2 ^ 10) (s.reg rk) e →
            t.tlb[j]? = some { e with e := false }) ∧
          (¬ InvtlbClears op.toNat ((s.reg rj).toNat % 2 ^ 10) (s.reg rk) e →
            t.tlb[j]? = some e))

/-! Traps and returns. -/

/-- ERTN at PLV0: PLV and IE from PRMD, the translation mode after a TLB refill, LLbit by KLO, KLO
cleared, the pc from ERA, and nothing else (`45_privileged.md` R360). -/
def Obligations.Ertn : Prop :=
  ∀ (s : State), encode .ertn = 0x06483800#32 ∧ ChecksPrivilege .ertn s ∧
    (s.csr.crmd.plv = 0#2 →
      ∃ t, exec .ertn s = .next t ∧ t.csr.crmd.plv = s.csr.prmd.pplv ∧
        t.csr.crmd.ie = s.csr.prmd.pie ∧
        t.csr.crmd.da = (if s.csr.estat.ecode.toNat = 0x3F then false else s.csr.crmd.da) ∧
        t.csr.crmd.pg = (if s.csr.estat.ecode.toNat = 0x3F then true else s.csr.crmd.pg) ∧
        t.csr.crmd.datf = s.csr.crmd.datf ∧ t.csr.crmd.datm = s.csr.crmd.datm ∧
        t.llbit = (if s.csr.klo then s.llbit else false) ∧ t.csr.klo = false ∧
        { t.csr with crmd := s.csr.crmd, klo := s.csr.klo } = s.csr ∧ t.pc = s.csr.era ∧
        SameRegs s t ∧ SameMem s t ∧ t.tlb = s.tlb ∧ t.draws = s.draws ∧ SameOutside s t)

/-- An ERTN as the first instruction of a handler gives back the interrupted pc, privilege level,
interrupt enable and translation mode, and every register and byte of memory, for every kind of trap;
a TLB refill comes from mapped mode only (`60_exceptions.md` R420, R423, R426). -/
def Obligations.TrapThenReturn : Prop :=
  ∀ (s t : State) (code sub : Nat) (bad vpn : Option Word),
    Enters code sub bad vpn s t → (code = 0x3F → MappedMode s) →
    ∃ u, exec .ertn t = .next u ∧ u.csr.crmd = s.csr.crmd ∧ u.pc = s.pc ∧ SameRegs s u ∧ SameMem s u

/-! Address translation. -/

/-- In direct address translation mode the physical address is the virtual one, at every level and for
every kind of access, and nothing is raised (`20_memory.md` R101). -/
def Obligations.DirectModeAccess : Prop :=
  ∀ (s : State) (kind : AccessKind) (va : Word), DirectMode s →
    ∃ r, Sys2Proof.Machine.translate kind va s = .done r ∧ r.pa = va ∧
      r.mat = if kind = .fetch then s.csr.crmd.datf else s.csr.crmd.datm

/-- In mapped mode a window that the current level may use replaces VA[31:29] by PSEG and keeps the
rest, whatever the TLB holds (`20_memory.md` R102). That of two that hit DMW1 counts is the spec's own
inference from the loop it transcribes (R102, D27). -/
def Obligations.WindowAccess : Prop :=
  ∀ (s : State) (kind : AccessKind) (va : Word), MappedMode s →
    (InWindow s.csr.dmw1 s.csr.crmd.plv va →
      ∃ r, Sys2Proof.Machine.translate kind va s = .done r ∧
        r.pa.toNat = s.csr.dmw1.pseg.toNat * 2 ^ 29 + va.toNat % 2 ^ 29 ∧
        r.mat = s.csr.dmw1.mat) ∧
    (¬ InWindow s.csr.dmw1 s.csr.crmd.plv va → InWindow s.csr.dmw0 s.csr.crmd.plv va →
      ∃ r, Sys2Proof.Machine.translate kind va s = .done r ∧
        r.pa.toNat = s.csr.dmw0.pseg.toNat * 2 ^ 29 + va.toNat % 2 ^ 29 ∧
        r.mat = s.csr.dmw0.mat)

/-- An address that no window maps, that the level may use and that one TLB entry matches, with the
selected page valid, the level privileged enough and the page dirty for a store, is translated to the
page's frame and the offset in the page (`20_memory.md` R104, R105). -/
def Obligations.PageTranslation : Prop :=
  ∀ (s : State) (kind : AccessKind) (va : Word) (i : Nat) (e : TlbEntry),
    MappedMode s → NoWindow s va → MayUse s va → OnlyMatch s i e s.csr.asid va →
    (selectedPage e va).v = true → s.csr.crmd.plv.toNat ≤ (selectedPage e va).plv.toNat →
    (kind = .store → (selectedPage e va).d = true) →
    ∃ r, Sys2Proof.Machine.translate kind va s = .done r ∧
      r.pa.toNat =
        (selectedPage e va).ppn.toNat / 2 ^ (e.ps.toNat - 12) * 2 ^ e.ps.toNat +
          va.toNat % 2 ^ e.ps.toNat ∧
      r.mat = (selectedPage e va).mat

/-- The exceptions of a data access in their order: ALE in every mode; then in mapped mode, outside
the windows, ADEM, TLBR, PIL or PIS, PPI, PME; each abandons the instruction with no effect and records
the address, and TLBEHI.VPPN for the ones of the TLB (`20_memory.md` R86, R103, R105,
`60_exceptions.md` R402, R403, R405, R406, R407, R413). -/
def Obligations.DataTranslationTraps : Prop :=
  ∀ (i : Instr) (s : State) (kind : AccessKind) (n : Nat) (va : Word),
    dataAccessOf i s = some (kind, n, va) →
    (va.toNat % n ≠ 0 → Traps i 0x9 0 (some va) none s) ∧
    (va.toNat % n = 0 → MappedMode s → NoWindow s va →
      (¬ MayUse s va → Traps i 0x8 1 (some va) none s) ∧
      (MayUse s va →
        (NoneMatches s.tlb s.csr.asid va → Traps i 0x3F 0 (some va) (some va) s) ∧
        ∀ (j : Nat) (e : TlbEntry), OnlyMatch s j e s.csr.asid va →
          ((selectedPage e va).v = false →
            Traps i (if kind = .store then 0x2 else 0x1) 0 (some va) (some va) s) ∧
          ((selectedPage e va).v = true →
            ((selectedPage e va).plv.toNat < s.csr.crmd.plv.toNat →
              Traps i 0x7 0 (some va) (some va) s) ∧
            (s.csr.crmd.plv.toNat ≤ (selectedPage e va).plv.toNat → kind = .store →
              (selectedPage e va).d = false → Traps i 0x4 0 (some va) (some va) s))))

/-- The exceptions of a fetch in their order: ADEF for a misaligned pc in every mode; then in mapped
mode, outside the windows, ADEF for the upper half, TLBR, PIF, PPI; ERA and BADV are the pc
(`20_memory.md` R85, `60_exceptions.md` R402, R404, R407, R413). -/
def Obligations.FetchTraps : Prop :=
  ∀ (s : State), Quiet s →
    (s.pc.toNat % 4 ≠ 0 → StepTraps 0x8 0 (some s.pc) none s) ∧
    (s.pc.toNat % 4 = 0 → MappedMode s → NoWindow s s.pc →
      (¬ MayUse s s.pc → StepTraps 0x8 0 (some s.pc) none s) ∧
      (MayUse s s.pc →
        (NoneMatches s.tlb s.csr.asid s.pc → StepTraps 0x3F 0 (some s.pc) (some s.pc) s) ∧
        ∀ (j : Nat) (e : TlbEntry), OnlyMatch s j e s.csr.asid s.pc →
          ((selectedPage e s.pc).v = false → StepTraps 0x3 0 (some s.pc) (some s.pc) s) ∧
          ((selectedPage e s.pc).v = true →
            (selectedPage e s.pc).plv.toNat < s.csr.crmd.plv.toNat →
              StepTraps 0x7 0 (some s.pc) (some s.pc) s)))

/-- Where a translation or an access stops: DA = PG, two matching entries, and a byte that is absent or
a device's (`93_implementation_defined.md` U1, U3, U10). Of an access of several bytes the lowest that
is no memory decides: the model's choice, assumption log 26. So is the refusal of a device, log 10. -/
def Obligations.TranslationStops : Prop :=
  ∀ (s : State),
    (∀ kind va, s.csr.crmd.da = s.csr.crmd.pg →
      Sys2Proof.Machine.translate kind va s = .refuse .translationModeUndefined) ∧
    (Quiet s → s.pc.toNat % 4 = 0 → s.csr.crmd.da = s.csr.crmd.pg →
      step s = .refused .translationModeUndefined) ∧
    (∀ kind va, MappedMode s → NoWindow s va → MayUse s va → SeveralMatch s s.csr.asid va →
      Sys2Proof.Machine.translate kind va s = .refuse .tlbMultipleHit) ∧
    (∀ i kind n va r k, dataAccessOf i s = some (kind, n, va) → va.toNat % n = 0 →
      Sys2Proof.Machine.translate kind va s = .done r → k < n → Backed k r.pa s →
      (regionAt s.params (r.pa + BitVec.ofNat 32 k) = none → exec i s = .fault .busError) ∧
      (regionAt s.params (r.pa + BitVec.ofNat 32 k) = some .device →
        exec i s = .refused .deviceAccess)) ∧
    (∀ r k, Quiet s → s.pc.toNat % 4 = 0 → Sys2Proof.Machine.translate .fetch s.pc s = .done r →
      k < 4 → Backed k r.pa s →
      (regionAt s.params (r.pa + BitVec.ofNat 32 k) = none → step s = .fault .busError) ∧
      (regionAt s.params (r.pa + BitVec.ofNat 32 k) = some .device →
        step s = .refused .deviceAccess))

/-! Steps. -/

/-- A step runs the instruction that the fetched word decodes to: on the state itself where nothing
happens at the boundary (`10_state.md` R26, `60_exceptions.md` R430), and in general on the state the
environment leaves, the core awake (`45_privileged.md` R365, `60_exceptions.md` R435). The second clause
rests on the model's choices: what the environment does is one entry of a list, assumption log 3; ticks
and lines come before the interrupt decision and the fetch, and a core that wakes goes on in the same
step, log 19; a pending and enabled interrupt is taken at once, log 18. -/
def Obligations.StepRunsDecoded : Prop :=
  (∀ (s : State) (w : Word) (i : Instr), Quiet s → Fetches s w → decodeWord w = .instr i →
    step s = exec i s) ∧
  (∀ (s e : State) (w : Word) (i : Instr), resetAsserted s = false →
    e = { environment s with idleWait := false } →
    ((environment s).idleWait = true → pendingEnabled e ≠ 0#13) →
    (e.csr.crmd.ie = false ∨ pendingEnabled e = 0#13) → Fetches e w → decodeWord w = .instr i →
    step s = exec i e)

/-- The boundary: a core that waits stays as the environment leaves it until a source that ECFG enables
is pending in ESTAT; a globally enabled one is then taken, with ERA = the instruction not yet started,
and the core is awake (`60_exceptions.md` R435, `45_privileged.md` R365). That it is taken at the first
boundary is the model's choice, assumption log 18. -/
def Obligations.InterruptAndIdle : Prop :=
  ∀ (s e : State), resetAsserted s = false → e = environment s →
    (e.idleWait = true → csrRead 0x5#14 e &&& csrRead 0x4#14 e = 0#32 → step s = .next e) ∧
    (e.csr.crmd.ie = true → csrRead 0x5#14 e &&& csrRead 0x4#14 e ≠ 0#32 →
      ∃ t, step s = .next t ∧ Enters 0 0 none none { e with idleWait := false } t)

/-- The timer over any number of ticks after it has been loaded: periodic, it runs through
{InitVal, 2'b0} + 1 values and marks the interrupt at the end of each round; else it marks once, stops
and keeps whatever value it then has; stopped, it marks nothing (`60_exceptions.md` R444). -/
def Obligations.TimerCountdown : Prop :=
  ∀ (s : State) (n load : Nat), load = 4 * s.csr.tcfg.initVal.toNat →
    (s.timerRunning = true → s.timerCnt.toNat = load → s.csr.tcfg.periodic = true →
      (ticks n s).timerCnt.toNat = load - n % (load + 1) ∧ (ticks n s).timerRunning = true ∧
        (ticks n s).csr.estat.ti = (s.csr.estat.ti || decide (load < n))) ∧
    (s.timerRunning = true → s.timerCnt.toNat = load → s.csr.tcfg.periodic = false →
      (n ≤ load →
        (ticks n s).timerCnt.toNat = load - n ∧ (ticks n s).timerRunning = true ∧
          (ticks n s).csr.estat.ti = s.csr.estat.ti) ∧
      (load < n →
        (ticks n s).timerCnt = (ticks (load + 1) s).timerCnt ∧
          (ticks n s).timerRunning = false ∧ (ticks n s).csr.estat.ti = true)) ∧
    (s.timerRunning = false →
      (ticks n s).timerCnt = s.timerCnt ∧ (ticks n s).timerRunning = false ∧
        (ticks n s).csr.estat.ti = s.csr.estat.ti)

/-- Whatever a step does, the Stable Counter has advanced by the ticks the environment gave it, modulo
2^64, and the input lines have the levels it gave them (`10_state.md` R62, R63,
`44_barrier_system_time.md` R323). Without an input left they stay: assumption log 3. -/
def Obligations.CounterAdvances : Prop :=
  ∀ (s t : State), step s = .next t → resetAsserted s = false →
    (∀ i rest, s.inputs = i :: rest →
      t.stableCounter.toNat = (s.stableCounter.toNat + i.ticks) % 2 ^ 64 ∧ t.hwi = i.hwi ∧
        t.ipi = i.ipi ∧ t.inputs = rest) ∧
    (s.inputs = [] →
      t.stableCounter = s.stableCounter ∧ t.hwi = s.hwi ∧ t.ipi = s.ipi ∧ t.inputs = [])

/-! What no instruction does. -/

/-- A byte of memory that an instruction changes is one that it stores to: the instruction is a store,
or an SC.W with LLbit 1, and the byte is within its access, at the physical address of its translation
(`20_memory.md` R81, R106). -/
def Obligations.OnlyStoresWriteMemory : Prop :=
  ∀ (i : Instr) (s t : State) (c : Word), exec i s = .next t → t.byteAt c ≠ s.byteAt c →
    ∃ n va r k, dataAccessOf i s = some (.store, n, va) ∧ va.toNat % n = 0 ∧
      Sys2Proof.Machine.translate .store va s = .done r ∧ k < n ∧ c = r.pa + BitVec.ofNat 32 k

/-- A step that changes the TLB, reset apart, has executed TLBWR, TLBFILL or INVTLB at PLV0; hardware
never refills it (`10_state.md` R60, `20_memory.md` R107). -/
def Obligations.OnlyTlbInstructionsWriteTlb : Prop :=
  ∀ (s t : State), step s = .next t → resetAsserted s = false → t.tlb ≠ s.tlb →
    ∃ e i, boundary s = .ready e ∧ fetchInstr e = .done i ∧ e.csr.crmd.plv = 0#2 ∧
      (i = .tlbwr ∨ i = .tlbfill ∨ ∃ op rj rk, i = .invtlb op rj rk)

/-- LLbit is set by a step that has executed LL.W, and cleared by one that has executed SC.W, ERTN or a
CSR write to LLBCTL, or by reset; by nothing else (`43_load_store.md` R297). -/
def Obligations.LLbitChanges : Prop :=
  ∀ (s t : State), step s = .next t → t.llbit ≠ s.llbit →
    (resetAsserted s = true ∧ t.llbit = false) ∨
    ∃ e i, boundary s = .ready e ∧ fetchInstr e = .done i ∧
      (if t.llbit then ∃ rd rj si14, i = .llW rd rj si14
        else (∃ rd rj si14, i = .scW rd rj si14) ∨ i = .ertn ∨ (∃ rd, i = .csrwr rd 0x60#14) ∨
          ∃ rd rj, i = .csrxchg rd rj 0x60#14)

/-- A step taken at a level other than PLV0, reset apart, leaves the TLB and every CSR as the
environment leaves them, or takes a trap: no user instruction touches the system state, and PLV0 is
entered by a trap only (`60_exceptions.md` R446). -/
def Obligations.UserModeConfined : Prop :=
  ∀ (s t : State), step s = .next t → resetAsserted s = false → s.csr.crmd.plv ≠ 0#2 →
    t.tlb = s.tlb ∧
    ((t.csr = (environment s).csr ∧ t.csr.crmd = s.csr.crmd) ∨
      ∃ code sub bad vpn, Enters code sub bad vpn { environment s with idleWait := false } t)

/-- A machine in direct address translation mode whose whole memory is RAM never stops, but by a TLB
instruction at PLV0 (`20_memory.md` R101, `60_exceptions.md` R400: every other condition is a trap). -/
def Obligations.DirectModeNeverStops : Prop :=
  ∀ (s : State), DirectMode s → MemoryBacked (fun _ => True) s →
    (∃ t, step s = .next t) ∨
    ∃ e i, boundary s = .ready e ∧ fetchInstr e = .done i ∧ e.csr.crmd.plv = 0#2 ∧
      (i = .tlbsrch ∨ i = .tlbrd ∨ i = .tlbwr ∨ i = .tlbfill)

/-- Every step keeps the invariant of the machine: memory canonical, register 0 zero, parameters and
TLB in their bounds, TLBIDX.Index, TCFG.InitVal and timer_cnt in their widths (`10_state.md` R20, R40,
R50, R61, `00_scope.md` R8). -/
def Obligations.InvariantKept : Prop :=
  ∀ (s t : State), Invariant s → step s = .next t → Invariant t

/-- The machine meets its invariant right after reset, with the parameters of assumption log 4. -/
def Obligations.InvariantAtReset : Prop := Invariant State.reset

/-- What the spec states for reset holds of the state right after reset, and of the state that any
step with reset asserted ends in, whatever the machine was doing (`70_reset_and_hazards.md` R461). -/
def Obligations.ResetValuesHold : Prop :=
  ResetValues State.reset ∧
    ∀ s, resetAsserted s = true → ∃ t, step s = .next t ∧ ResetValues t

/-- A word stored after the running instruction is what the next step fetches and runs: this hardware
has no cache (`20_memory.md` R114, assumption log 21). -/
def Obligations.StoreThenFetch : Prop :=
  ∀ (s : State) (rd rj : Reg) (si12 : BitVec 12) (i : Instr),
    Quiet s → DirectMode s → s.pc.toNat % 4 = 0 → dataAddress rj si12 s = s.pc + 4#32 →
    Backed 4 (s.pc + 4#32) s → decodeWord (s.reg rd) = .instr i →
    ∃ t, exec (.stW rd rj si12) s = .next t ∧ step t = exec i t

end
end

