-- ==== Sys2Proof/Laws/State.lean ====
section
/-! SUPPORT. Every field after every update of the state: what the update leaves, and what it writes. -/

namespace Sys2Proof.Machine

/-! `setReg` -/

@[simp] theorem setReg_pc (s : State) (r : Reg) (v : Word) : (s.setReg r v).pc = s.pc := rfl
@[simp] theorem setReg_llbit (s : State) (r : Reg) (v : Word) : (s.setReg r v).llbit = s.llbit := rfl
@[simp] theorem setReg_csr (s : State) (r : Reg) (v : Word) : (s.setReg r v).csr = s.csr := rfl
@[simp] theorem setReg_timerCnt (s : State) (r : Reg) (v : Word) : (s.setReg r v).timerCnt = s.timerCnt := rfl
@[simp] theorem setReg_timerRunning (s : State) (r : Reg) (v : Word) : (s.setReg r v).timerRunning = s.timerRunning := rfl
@[simp] theorem setReg_tlb (s : State) (r : Reg) (v : Word) : (s.setReg r v).tlb = s.tlb := rfl
@[simp] theorem setReg_stableCounter (s : State) (r : Reg) (v : Word) : (s.setReg r v).stableCounter = s.stableCounter := rfl
@[simp] theorem setReg_idleWait (s : State) (r : Reg) (v : Word) : (s.setReg r v).idleWait = s.idleWait := rfl
@[simp] theorem setReg_hwi (s : State) (r : Reg) (v : Word) : (s.setReg r v).hwi = s.hwi := rfl
@[simp] theorem setReg_ipi (s : State) (r : Reg) (v : Word) : (s.setReg r v).ipi = s.ipi := rfl
@[simp] theorem setReg_mem (s : State) (r : Reg) (v : Word) : (s.setReg r v).mem = s.mem := rfl
@[simp] theorem setReg_inputs (s : State) (r : Reg) (v : Word) : (s.setReg r v).inputs = s.inputs := rfl
@[simp] theorem setReg_draws (s : State) (r : Reg) (v : Word) : (s.setReg r v).draws = s.draws := rfl
@[simp] theorem setReg_params (s : State) (r : Reg) (v : Word) : (s.setReg r v).params = s.params := rfl

/-! `setPc` -/

@[simp] theorem setPc_gpr (s : State) (a : Word) : (s.setPc a).gpr = s.gpr := rfl
@[simp] theorem setPc_llbit (s : State) (a : Word) : (s.setPc a).llbit = s.llbit := rfl
@[simp] theorem setPc_csr (s : State) (a : Word) : (s.setPc a).csr = s.csr := rfl
@[simp] theorem setPc_timerCnt (s : State) (a : Word) : (s.setPc a).timerCnt = s.timerCnt := rfl
@[simp] theorem setPc_timerRunning (s : State) (a : Word) : (s.setPc a).timerRunning = s.timerRunning := rfl
@[simp] theorem setPc_tlb (s : State) (a : Word) : (s.setPc a).tlb = s.tlb := rfl
@[simp] theorem setPc_stableCounter (s : State) (a : Word) : (s.setPc a).stableCounter = s.stableCounter := rfl
@[simp] theorem setPc_idleWait (s : State) (a : Word) : (s.setPc a).idleWait = s.idleWait := rfl
@[simp] theorem setPc_hwi (s : State) (a : Word) : (s.setPc a).hwi = s.hwi := rfl
@[simp] theorem setPc_ipi (s : State) (a : Word) : (s.setPc a).ipi = s.ipi := rfl
@[simp] theorem setPc_mem (s : State) (a : Word) : (s.setPc a).mem = s.mem := rfl
@[simp] theorem setPc_inputs (s : State) (a : Word) : (s.setPc a).inputs = s.inputs := rfl
@[simp] theorem setPc_draws (s : State) (a : Word) : (s.setPc a).draws = s.draws := rfl
@[simp] theorem setPc_params (s : State) (a : Word) : (s.setPc a).params = s.params := rfl

/-! `advance` -/

@[simp] theorem advance_gpr (s : State) : s.advance.gpr = s.gpr := rfl
@[simp] theorem advance_llbit (s : State) : s.advance.llbit = s.llbit := rfl
@[simp] theorem advance_csr (s : State) : s.advance.csr = s.csr := rfl
@[simp] theorem advance_timerCnt (s : State) : s.advance.timerCnt = s.timerCnt := rfl
@[simp] theorem advance_timerRunning (s : State) : s.advance.timerRunning = s.timerRunning := rfl
@[simp] theorem advance_tlb (s : State) : s.advance.tlb = s.tlb := rfl
@[simp] theorem advance_stableCounter (s : State) : s.advance.stableCounter = s.stableCounter := rfl
@[simp] theorem advance_idleWait (s : State) : s.advance.idleWait = s.idleWait := rfl
@[simp] theorem advance_hwi (s : State) : s.advance.hwi = s.hwi := rfl
@[simp] theorem advance_ipi (s : State) : s.advance.ipi = s.ipi := rfl
@[simp] theorem advance_mem (s : State) : s.advance.mem = s.mem := rfl
@[simp] theorem advance_inputs (s : State) : s.advance.inputs = s.inputs := rfl
@[simp] theorem advance_draws (s : State) : s.advance.draws = s.draws := rfl
@[simp] theorem advance_params (s : State) : s.advance.params = s.params := rfl

/-! `storeBytes` -/

@[simp] theorem storeBytes_gpr (s : State) (a : Word) (bs : List Byte) : (s.storeBytes a bs).gpr = s.gpr := rfl
@[simp] theorem storeBytes_pc (s : State) (a : Word) (bs : List Byte) : (s.storeBytes a bs).pc = s.pc := rfl
@[simp] theorem storeBytes_llbit (s : State) (a : Word) (bs : List Byte) : (s.storeBytes a bs).llbit = s.llbit := rfl
@[simp] theorem storeBytes_csr (s : State) (a : Word) (bs : List Byte) : (s.storeBytes a bs).csr = s.csr := rfl
@[simp] theorem storeBytes_timerCnt (s : State) (a : Word) (bs : List Byte) : (s.storeBytes a bs).timerCnt = s.timerCnt := rfl
@[simp] theorem storeBytes_timerRunning (s : State) (a : Word) (bs : List Byte) : (s.storeBytes a bs).timerRunning = s.timerRunning := rfl
@[simp] theorem storeBytes_tlb (s : State) (a : Word) (bs : List Byte) : (s.storeBytes a bs).tlb = s.tlb := rfl
@[simp] theorem storeBytes_stableCounter (s : State) (a : Word) (bs : List Byte) : (s.storeBytes a bs).stableCounter = s.stableCounter := rfl
@[simp] theorem storeBytes_idleWait (s : State) (a : Word) (bs : List Byte) : (s.storeBytes a bs).idleWait = s.idleWait := rfl
@[simp] theorem storeBytes_hwi (s : State) (a : Word) (bs : List Byte) : (s.storeBytes a bs).hwi = s.hwi := rfl
@[simp] theorem storeBytes_ipi (s : State) (a : Word) (bs : List Byte) : (s.storeBytes a bs).ipi = s.ipi := rfl
@[simp] theorem storeBytes_inputs (s : State) (a : Word) (bs : List Byte) : (s.storeBytes a bs).inputs = s.inputs := rfl
@[simp] theorem storeBytes_draws (s : State) (a : Word) (bs : List Byte) : (s.storeBytes a bs).draws = s.draws := rfl
@[simp] theorem storeBytes_params (s : State) (a : Word) (bs : List Byte) : (s.storeBytes a bs).params = s.params := rfl

/-! `writeNext` -/

@[simp] theorem writeNext_llbit (s : State) (r : Reg) (v : Word) : (writeNext r v s).llbit = s.llbit := rfl
@[simp] theorem writeNext_csr (s : State) (r : Reg) (v : Word) : (writeNext r v s).csr = s.csr := rfl
@[simp] theorem writeNext_timerCnt (s : State) (r : Reg) (v : Word) : (writeNext r v s).timerCnt = s.timerCnt := rfl
@[simp] theorem writeNext_timerRunning (s : State) (r : Reg) (v : Word) : (writeNext r v s).timerRunning = s.timerRunning := rfl
@[simp] theorem writeNext_tlb (s : State) (r : Reg) (v : Word) : (writeNext r v s).tlb = s.tlb := rfl
@[simp] theorem writeNext_stableCounter (s : State) (r : Reg) (v : Word) : (writeNext r v s).stableCounter = s.stableCounter := rfl
@[simp] theorem writeNext_idleWait (s : State) (r : Reg) (v : Word) : (writeNext r v s).idleWait = s.idleWait := rfl
@[simp] theorem writeNext_hwi (s : State) (r : Reg) (v : Word) : (writeNext r v s).hwi = s.hwi := rfl
@[simp] theorem writeNext_ipi (s : State) (r : Reg) (v : Word) : (writeNext r v s).ipi = s.ipi := rfl
@[simp] theorem writeNext_mem (s : State) (r : Reg) (v : Word) : (writeNext r v s).mem = s.mem := rfl
@[simp] theorem writeNext_inputs (s : State) (r : Reg) (v : Word) : (writeNext r v s).inputs = s.inputs := rfl
@[simp] theorem writeNext_draws (s : State) (r : Reg) (v : Word) : (writeNext r v s).draws = s.draws := rfl
@[simp] theorem writeNext_params (s : State) (r : Reg) (v : Word) : (writeNext r v s).params = s.params := rfl

/-! `trapEntry` -/

@[simp] theorem trapEntry_gpr (s : State) (x : Trap) (a : Word) : (trapEntry x a s).gpr = s.gpr := rfl
@[simp] theorem trapEntry_llbit (s : State) (x : Trap) (a : Word) : (trapEntry x a s).llbit = s.llbit := rfl
@[simp] theorem trapEntry_timerCnt (s : State) (x : Trap) (a : Word) : (trapEntry x a s).timerCnt = s.timerCnt := rfl
@[simp] theorem trapEntry_timerRunning (s : State) (x : Trap) (a : Word) : (trapEntry x a s).timerRunning = s.timerRunning := rfl
@[simp] theorem trapEntry_tlb (s : State) (x : Trap) (a : Word) : (trapEntry x a s).tlb = s.tlb := rfl
@[simp] theorem trapEntry_stableCounter (s : State) (x : Trap) (a : Word) : (trapEntry x a s).stableCounter = s.stableCounter := rfl
@[simp] theorem trapEntry_idleWait (s : State) (x : Trap) (a : Word) : (trapEntry x a s).idleWait = s.idleWait := rfl
@[simp] theorem trapEntry_hwi (s : State) (x : Trap) (a : Word) : (trapEntry x a s).hwi = s.hwi := rfl
@[simp] theorem trapEntry_ipi (s : State) (x : Trap) (a : Word) : (trapEntry x a s).ipi = s.ipi := rfl
@[simp] theorem trapEntry_mem (s : State) (x : Trap) (a : Word) : (trapEntry x a s).mem = s.mem := rfl
@[simp] theorem trapEntry_inputs (s : State) (x : Trap) (a : Word) : (trapEntry x a s).inputs = s.inputs := rfl
@[simp] theorem trapEntry_draws (s : State) (x : Trap) (a : Word) : (trapEntry x a s).draws = s.draws := rfl
@[simp] theorem trapEntry_params (s : State) (x : Trap) (a : Word) : (trapEntry x a s).params = s.params := rfl

/-! `trapReturn` -/

@[simp] theorem trapReturn_gpr (s : State) : (trapReturn s).gpr = s.gpr := rfl
@[simp] theorem trapReturn_timerCnt (s : State) : (trapReturn s).timerCnt = s.timerCnt := rfl
@[simp] theorem trapReturn_timerRunning (s : State) : (trapReturn s).timerRunning = s.timerRunning := rfl
@[simp] theorem trapReturn_tlb (s : State) : (trapReturn s).tlb = s.tlb := rfl
@[simp] theorem trapReturn_stableCounter (s : State) : (trapReturn s).stableCounter = s.stableCounter := rfl
@[simp] theorem trapReturn_idleWait (s : State) : (trapReturn s).idleWait = s.idleWait := rfl
@[simp] theorem trapReturn_hwi (s : State) : (trapReturn s).hwi = s.hwi := rfl
@[simp] theorem trapReturn_ipi (s : State) : (trapReturn s).ipi = s.ipi := rfl
@[simp] theorem trapReturn_mem (s : State) : (trapReturn s).mem = s.mem := rfl
@[simp] theorem trapReturn_inputs (s : State) : (trapReturn s).inputs = s.inputs := rfl
@[simp] theorem trapReturn_draws (s : State) : (trapReturn s).draws = s.draws := rfl
@[simp] theorem trapReturn_params (s : State) : (trapReturn s).params = s.params := rfl

/-! `withFetchWord` -/

@[simp] theorem withFetchWord_gpr (s : State) (n w : Nat) : (s.withFetchWord n w).gpr = s.gpr := rfl
@[simp] theorem withFetchWord_pc (s : State) (n w : Nat) : (s.withFetchWord n w).pc = s.pc := rfl
@[simp] theorem withFetchWord_llbit (s : State) (n w : Nat) : (s.withFetchWord n w).llbit = s.llbit := rfl
@[simp] theorem withFetchWord_csr (s : State) (n w : Nat) : (s.withFetchWord n w).csr = s.csr := rfl
@[simp] theorem withFetchWord_timerCnt (s : State) (n w : Nat) : (s.withFetchWord n w).timerCnt = s.timerCnt := rfl
@[simp] theorem withFetchWord_timerRunning (s : State) (n w : Nat) : (s.withFetchWord n w).timerRunning = s.timerRunning := rfl
@[simp] theorem withFetchWord_tlb (s : State) (n w : Nat) : (s.withFetchWord n w).tlb = s.tlb := rfl
@[simp] theorem withFetchWord_stableCounter (s : State) (n w : Nat) : (s.withFetchWord n w).stableCounter = s.stableCounter := rfl
@[simp] theorem withFetchWord_hwi (s : State) (n w : Nat) : (s.withFetchWord n w).hwi = s.hwi := rfl
@[simp] theorem withFetchWord_ipi (s : State) (n w : Nat) : (s.withFetchWord n w).ipi = s.ipi := rfl
@[simp] theorem withFetchWord_inputs (s : State) (n w : Nat) : (s.withFetchWord n w).inputs = s.inputs := rfl
@[simp] theorem withFetchWord_draws (s : State) (n w : Nat) : (s.withFetchWord n w).draws = s.draws := rfl
@[simp] theorem withFetchWord_params (s : State) (n w : Nat) : (s.withFetchWord n w).params = s.params := rfl

/-! What the updates write. -/

@[simp] theorem setPc_pc (s : State) (a : Word) : (s.setPc a).pc = a := rfl
@[simp] theorem advance_pc (s : State) : s.advance.pc = s.pc + 4#32 := rfl
@[simp] theorem writeNext_pc (s : State) (r : Reg) (v : Word) : (writeNext r v s).pc = s.pc + 4#32 := rfl
@[simp] theorem storeBytes_mem (s : State) (a : Word) (bs : List Byte) :
    (s.storeBytes a bs).mem = Memory.writeBytes s.mem a bs := rfl
@[simp] theorem trapEntry_csr (s : State) (x : Trap) (a : Word) :
    (trapEntry x a s).csr = trapCsrs x a s.csr := rfl
@[simp] theorem trapEntry_pc (s : State) (x : Trap) (a : Word) :
    (trapEntry x a s).pc = trapTarget x s.csr := rfl
@[simp] theorem trapReturn_csr (s : State) : (trapReturn s).csr = returnCsrs s.csr := rfl
@[simp] theorem trapReturn_pc (s : State) : (trapReturn s).pc = s.csr.era := rfl
@[simp] theorem trapReturn_llbit (s : State) : (trapReturn s).llbit = (s.csr.klo && s.llbit) := rfl

/-! Registers and bytes read after an update. -/

@[simp] theorem reg_zero (s : State) : s.reg 0#5 = 0#32 := by simp [State.reg]

/-- A register reads the same in two states with the same register file. -/
theorem reg_congr {s t : State} (h : t.gpr = s.gpr) (r : Reg) : t.reg r = s.reg r := by
  simp [State.reg, h]

/-- What a write to a register leaves in every register (R20, R22). -/
theorem reg_setReg (s : State) (rd r : Reg) (v : Word) :
    (s.setReg rd v).reg r = if r = rd ∧ rd ≠ 0#5 then v else s.reg r := by
  unfold State.reg State.setReg
  by_cases h0 : r = 0#5
  · subst h0
    by_cases hd : rd = 0#5
    · simp [hd]
    · simp [hd, Ne.symm hd]
  · by_cases hd : rd = 0#5
    · subst hd; simp [h0]
    · by_cases hr : r = rd
      · subst hr; simp [h0]
      · have : rd.toNat ≠ r.toNat := fun h => hr (BitVec.eq_of_toNat_eq h.symm)
        simp [h0, hd, hr, this]

@[simp] theorem reg_setReg_same (s : State) {rd : Reg} (h : rd ≠ 0#5) (v : Word) :
    (s.setReg rd v).reg rd = v := by simp [reg_setReg, h]

@[simp] theorem reg_setReg_zero (s : State) (r : Reg) (v : Word) : (s.setReg 0#5 v).reg r = s.reg r := by
  simp [reg_setReg]

theorem reg_setReg_other (s : State) {rd r : Reg} (h : r ≠ rd) (v : Word) :
    (s.setReg rd v).reg r = s.reg r := by simp [reg_setReg, h]

@[simp] theorem reg_setPc (s : State) (a : Word) (r : Reg) : (s.setPc a).reg r = s.reg r := rfl
@[simp] theorem reg_advance (s : State) (r : Reg) : s.advance.reg r = s.reg r := rfl
@[simp] theorem reg_storeBytes (s : State) (a : Word) (bs : List Byte) (r : Reg) :
    (s.storeBytes a bs).reg r = s.reg r := rfl
@[simp] theorem reg_trapEntry (s : State) (x : Trap) (a : Word) (r : Reg) :
    (trapEntry x a s).reg r = s.reg r := rfl
@[simp] theorem reg_trapReturn (s : State) (r : Reg) : (trapReturn s).reg r = s.reg r := rfl

/-- What the end of a register instruction leaves in every register. -/
theorem reg_writeNext (s : State) (rd r : Reg) (v : Word) :
    (writeNext rd v s).reg r = if r = rd ∧ rd ≠ 0#5 then v else s.reg r := reg_setReg s rd r v

@[simp] theorem byteAt_setReg (s : State) (r : Reg) (v a : Word) : (s.setReg r v).byteAt a = s.byteAt a := rfl
@[simp] theorem byteAt_setPc (s : State) (p a : Word) : (s.setPc p).byteAt a = s.byteAt a := rfl
@[simp] theorem byteAt_advance (s : State) (a : Word) : s.advance.byteAt a = s.byteAt a := rfl
@[simp] theorem byteAt_writeNext (s : State) (r : Reg) (v a : Word) :
    (writeNext r v s).byteAt a = s.byteAt a := rfl
@[simp] theorem byteAt_trapEntry (s : State) (x : Trap) (p a : Word) :
    (trapEntry x p s).byteAt a = s.byteAt a := rfl

end Sys2Proof.Machine
end

