-- ==== Sys2Proof/Laws/Memory.lean ====
section
/-! SUPPORT. Memory: a read after a write, and that every operation keeps the canonical form. The
read laws hold for every list of cells; only the canonical form needs its premise. -/

namespace Sys2Proof.Machine

theorem readNat_insert (m : List Host.Cell) (a : Nat) (b : Byte) (h : ∀ c ∈ m, c.1 ≠ a) (c : Nat) :
    Memory.readNat (Memory.insert m a b) c = if a = c then b else Memory.readNat m c := by
  induction m with
  | nil => simp [Memory.insert, Memory.readNat]
  | cons x rest ih =>
    obtain ⟨k, v⟩ := x
    have hk : k ≠ a := h (k, v) (by simp)
    have ih := ih (fun c hc => h c (by simp [hc]))
    by_cases hlt : a < k
    · simp [Memory.insert, hlt, Memory.readNat]
    · simp only [Memory.insert, hlt, if_false, Memory.readNat, ih]
      by_cases hkc : k = c
      · subst hkc; simp [Ne.symm hk]
      · simp [hkc]

theorem readNat_filter (m : List Host.Cell) (a c : Nat) :
    Memory.readNat (m.filter (fun x => x.1 != a)) c = if a = c then 0#8 else Memory.readNat m c := by
  induction m with
  | nil => simp [Memory.readNat, Memory.unlisted]
  | cons x rest ih =>
    obtain ⟨k, v⟩ := x
    by_cases hk : k = a
    · subst hk; simp only [bne_self_eq_false, List.filter_cons_of_neg, Bool.false_eq_true,
        not_false_eq_true, ih, Memory.readNat]; split <;> simp_all
    · simp only [bne_iff_ne, ne_eq, hk, not_false_eq_true, List.filter_cons_of_pos, Memory.readNat, ih]
      by_cases hkc : k = c
      · subst hkc; simp [Ne.symm hk]
      · simp [hkc]

/-- A read after a write of one byte (`20_memory.md` R110). -/
theorem readNat_writeNat (m : List Host.Cell) (a c : Nat) (b : Byte) :
    Memory.readNat (Memory.writeNat m a b) c = if a = c then b else Memory.readNat m c := by
  unfold Memory.writeNat
  split
  · next h => subst h; simp [readNat_filter, Memory.unlisted]
  · rw [readNat_insert _ _ _ (by simp)]
    simp only [readNat_filter]
    split <;> rfl

theorem insert_mem (m : List Host.Cell) (a : Nat) (b : Byte) (c : Host.Cell)
    (h : c ∈ Memory.insert m a b) : c = (a, b) ∨ c ∈ m := by
  induction m with
  | nil => simpa [Memory.insert] using h
  | cons x rest ih =>
    obtain ⟨k, v⟩ := x
    unfold Memory.insert at h
    split at h
    · simpa using h
    · rcases List.mem_cons.1 h with h | h
      · exact .inr (by simp [h])
      · rcases ih h with h | h
        · exact .inl h
        · exact .inr (by simp [h])

theorem insert_sorted (m : List Host.Cell) (a : Nat) (b : Byte) (hs : m.Pairwise (fun x y => x.1 < y.1))
    (ha : ∀ c ∈ m, c.1 ≠ a) : (Memory.insert m a b).Pairwise (fun x y => x.1 < y.1) := by
  induction m with
  | nil => simp [Memory.insert]
  | cons x rest ih =>
    obtain ⟨k, v⟩ := x
    obtain ⟨hk, hrest⟩ := List.pairwise_cons.1 hs
    unfold Memory.insert
    split
    · next hlt =>
      refine List.pairwise_cons.2 ⟨fun c hc => ?_, hs⟩
      rcases List.mem_cons.1 hc with rfl | hc
      · exact hlt
      · exact lt_trans hlt (hk c hc)
    · next hlt =>
      refine List.pairwise_cons.2 ⟨fun c hc => ?_, ih hrest (fun c hc => ha c (by simp [hc]))⟩
      rcases insert_mem _ _ _ _ hc with rfl | hc
      · have := ha (k, v) (by simp)
        simp only at this ⊢; omega
      · exact hk c hc

/-- A write of one byte below 2^32 keeps the canonical form. -/
theorem wf_writeNat {m : List Host.Cell} (h : Memory.wf m) {a : Nat} (ha : a < 2 ^ 32) (b : Byte) :
    Memory.wf (Memory.writeNat m a b) := by
  obtain ⟨hs, hc⟩ := h
  have hs' : (m.filter (fun x => x.1 != a)).Pairwise (fun x y => x.1 < y.1) := hs.filter _
  have hc' : ∀ c ∈ m.filter (fun x => x.1 != a), c.2 ≠ Memory.unlisted ∧ c.1 < 2 ^ 32 :=
    fun c h => hc c (List.mem_filter.1 h).1
  unfold Memory.writeNat
  split
  · exact ⟨hs', hc'⟩
  · next hb =>
    refine ⟨insert_sorted _ _ _ hs' (by simp), fun c h => ?_⟩
    rcases insert_mem _ _ _ _ h with rfl | h
    · exact ⟨hb, ha⟩
    · exact hc' c h

/-- Every write of bytes keeps the canonical form. -/
theorem wf_writeBytes {m : List Host.Cell} (h : Memory.wf m) (a : Word) (bs : List Byte) :
    Memory.wf (Memory.writeBytes m a bs) := by
  induction bs generalizing m a with
  | nil => exact h
  | cons b rest ih => exact ih (wf_writeNat h a.isLt b) (a + 1#32)

/-- The byte at any address after one byte has been written at an address. -/
theorem readByte_writeNat (m : List Host.Cell) (a c : Word) (b : Byte) :
    Memory.readByte (Memory.writeNat m a.toNat b) c = if c = a then b else Memory.readByte m c := by
  unfold Memory.readByte
  rw [readNat_writeNat]
  by_cases h : c = a
  · simp [h]
  · have : a.toNat ≠ c.toNat := fun e => h (BitVec.eq_of_toNat_eq e.symm)
    simp [h, this]

/-- The byte at any address after one byte has been stored. -/
theorem byteAt_store1 (s : State) (a c : Word) (b : Byte) :
    (s.storeBytes a [b]).byteAt c = if c = a then b else s.byteAt c := by
  simp only [State.byteAt, State.storeBytes, Memory.writeBytes, readByte_writeNat]

/-- The byte at any address after two bytes have been stored. -/
theorem byteAt_store2 (s : State) (a c : Word) (b0 b1 : Byte) :
    (s.storeBytes a [b0, b1]).byteAt c =
      if c = a + 1#32 then b1 else if c = a then b0 else s.byteAt c := by
  simp only [State.byteAt, State.storeBytes, Memory.writeBytes, readByte_writeNat]

/-- The byte at any address after four bytes have been stored. -/
theorem byteAt_store4 (s : State) (a c : Word) (b0 b1 b2 b3 : Byte) :
    (s.storeBytes a [b0, b1, b2, b3]).byteAt c =
      if c = a + 3#32 then b3 else if c = a + 2#32 then b2 else if c = a + 1#32 then b1
      else if c = a then b0 else s.byteAt c := by
  have h2 : a + 1#32 + 1#32 = a + 2#32 := by rw [BitVec.add_assoc]; rfl
  have h3 : a + 2#32 + 1#32 = a + 3#32 := by rw [BitVec.add_assoc]; rfl
  simp only [State.byteAt, State.storeBytes, Memory.writeBytes, readByte_writeNat, h2, h3]

end Sys2Proof.Machine
end

