-- ==== Sys2Proof/Laws/Ops.lean ====
section
/-! SUPPORT. For each shared operation, once, everything it can do. Later proofs cite these and unfold
nothing. -/

namespace Sys2Proof.Machine

/-! Attempts. -/

/-- An attempt after another succeeds exactly when both do. -/
theorem bind_done {α β : Type} {x : Attempt α} {f : α → Attempt β} {b : β} :
    x.bind f = .done b ↔ ∃ a, x = .done a ∧ f a = .done b := by
  cases x <;> simp [Attempt.bind]

/-- An attempt after another traps exactly when the first traps, or succeeds and the second traps. -/
theorem bind_trap {α β : Type} {x : Attempt α} {f : α → Attempt β} {t : Trap} :
    x.bind f = .trap t ↔ x = .trap t ∨ ∃ a, x = .done a ∧ f a = .trap t := by
  cases x <;> simp [Attempt.bind]

/-- The next states of an attempt: its own, or the entry of the trap it raises. -/
theorem outcome_next {x : Attempt State} {s t : State} :
    x.outcome s = .next t ↔ x = .done t ∨ ∃ r, x = .trap r ∧ t = trapEntry r s.pc s := by
  cases x <;> simp [Attempt.outcome, eq_comm]

@[simp] theorem outcome_done (t s : State) : (Attempt.done t).outcome s = .next t := rfl
@[simp] theorem outcome_trap (r : Trap) (s : State) :
    (Attempt.trap r).outcome s = .next (trapEntry r s.pc s) := rfl

/-- A privileged instruction at PLV0 does what its body does. -/
theorem privileged_kernel {s : State} (h : s.csr.crmd.plv = 0#2) (body : Attempt State) :
    privileged s body = body.outcome s := by simp [privileged, h]

/-- A privileged instruction elsewhere raises IPE (`45_privileged.md` R370). -/
theorem privileged_user {s : State} (h : s.csr.crmd.plv ≠ 0#2) (body : Attempt State) :
    privileged s body = .next (trapEntry .ipe s.pc s) := by simp [privileged, h, raise]

/-- Every next state of a privileged instruction. -/
theorem privileged_next {s t : State} {body : Attempt State} (h : privileged s body = .next t) :
    (s.csr.crmd.plv = 0#2 ∧ body.outcome s = .next t) ∨
      (s.csr.crmd.plv ≠ 0#2 ∧ t = trapEntry .ipe s.pc s) := by
  by_cases hp : s.csr.crmd.plv = 0#2
  · exact .inl ⟨hp, by rwa [privileged_kernel hp] at h⟩
  · rw [privileged_user hp] at h
    exact .inr ⟨hp, by simpa using h.symm⟩

/-! Data accesses. -/

/-- The bytes of an access, seen from its second byte. -/
theorem byte_after_next (pa : Word) (k : Nat) :
    pa + 1#32 + BitVec.ofNat 32 k = pa + BitVec.ofNat 32 (k + 1) := by
  rw [BitVec.add_assoc, Nat.add_comm, BitVec.ofNat_add]

/-- The platform backs an access exactly when every byte of it is memory (`20_memory.md` R95). -/
theorem checkBacked_done {p : Params} {pa : Word} {n : Nat} :
    checkBacked p pa n = .done () ↔
      ∀ k, k < n → regionAt p (pa + BitVec.ofNat 32 k) = some .ram := by
  induction n generalizing pa with
  | zero => simp [checkBacked]
  | succ n ih =>
    have next := ih (pa := pa + 1#32)
    simp only [byte_after_next] at next
    rw [Nat.forall_lt_succ_left, ← next]
    cases h : regionAt p pa with
    | none => simp [checkBacked, h]
    | some x => cases x <;> simp [checkBacked, h]

/-- The lowest byte of an access that is no memory decides what the access comes to (log 26). -/
theorem checkBacked_stop {p : Params} {pa : Word} {n k : Nat} (hk : k < n)
    (hb : ∀ j, j < k → regionAt p (pa + BitVec.ofNat 32 j) = some .ram) :
    (regionAt p (pa + BitVec.ofNat 32 k) = none → checkBacked p pa n = .fault .busError) ∧
      (regionAt p (pa + BitVec.ofNat 32 k) = some .device →
        checkBacked p pa n = .refuse .deviceAccess) := by
  induction n generalizing pa k with
  | zero => omega
  | succ n ih =>
    cases k with
    | zero => constructor <;> intro h <;> simp_all [checkBacked]
    | succ k =>
      have h0 : regionAt p pa = some .ram := by simpa using hb 0 (by omega)
      have next := ih (pa := pa + 1#32) (k := k) (by omega) fun j hj => by
        rw [byte_after_next]
        exact hb (j + 1) (by omega)
      rw [byte_after_next] at next
      simpa only [checkBacked, h0] using next

/-- A data access that succeeds is aligned, translated and backed. -/
theorem access_done {k : AccessKind} {n : Nat} {va pa : Word} {s : State} :
    access k n va s = .done pa ↔
      aligned n va = true ∧ ∃ r, translate k va s = .done r ∧
        checkBacked s.params r.pa n = .done () ∧ r.pa = pa := by
  unfold access
  split
  · next h => simp [bind_done, h, Unique.exists_iff]
  · next h => simp [h]

/-- A data access that traps: not aligned, or a trap of the translation. -/
theorem access_trap {k : AccessKind} {n : Nat} {va : Word} {s : State} {t : Trap} :
    access k n va s = .trap t ↔
      (aligned n va = false ∧ t = .ale va) ∨ (aligned n va = true ∧ translate k va s = .trap t) := by
  have hb : ∀ p a m u, checkBacked p a m ≠ .trap u := by
    intro p a m u
    induction m generalizing a with
    | zero => simp [checkBacked]
    | succ m ih => unfold checkBacked; split <;> simp_all
  unfold access
  split
  · next h => simp [bind_trap, h, hb]
  · next h => simp [h, eq_comm]

/-- Direct address translation mode: the physical address is the virtual one (`20_memory.md` R101). -/
theorem translate_direct {k : AccessKind} {va : Word} {s : State} (hd : s.csr.crmd.da = true)
    (hp : s.csr.crmd.pg = false) : translate k va s = .done (directTranslate k va s) := by
  simp [translate, hd, hp]

/-- Mapped address translation mode (R100). -/
theorem translate_mapped {k : AccessKind} {va : Word} {s : State} (hd : s.csr.crmd.da = false)
    (hp : s.csr.crmd.pg = true) : translate k va s = mappedTranslate k va s := by
  simp [translate, hd, hp]

/-- A load that succeeds. -/
theorem load_done {n : Nat} {va : Word} {f : Word → Word} {rd : Reg} {s t : State} :
    load n va f rd s = .done t ↔ ∃ pa, access .load n va s = .done pa ∧ t = writeNext rd (f pa) s := by
  rw [load, bind_done]
  exact ⟨fun ⟨pa, h, e⟩ => ⟨pa, h, (Attempt.done.inj e).symm⟩, fun ⟨pa, h, e⟩ => ⟨pa, h, by rw [e]⟩⟩

/-- A store that succeeds. -/
theorem store_done {va : Word} {bs : List Byte} {s t : State} :
    store va bs s = .done t ↔
      ∃ pa, access .store bs.length va s = .done pa ∧ t = (s.storeBytes pa bs).advance := by
  rw [store, bind_done]
  exact ⟨fun ⟨pa, h, e⟩ => ⟨pa, h, (Attempt.done.inj e).symm⟩, fun ⟨pa, h, e⟩ => ⟨pa, h, by rw [e]⟩⟩

/-- A store-conditional that succeeds. -/
theorem storeConditional_done {rd : Reg} {va : Word} {s t : State} :
    storeConditional rd va s = .done t ↔
      ∃ pa, access .store 4 va s = .done pa ∧
        t = { writeNext rd 1#32 (s.storeBytes pa (wordBytes (s.reg rd))) with llbit := false } := by
  rw [storeConditional, bind_done]
  exact ⟨fun ⟨pa, h, e⟩ => ⟨pa, h, (Attempt.done.inj e).symm⟩, fun ⟨pa, h, e⟩ => ⟨pa, h, by rw [e]⟩⟩

/-! The TLB. -/

/-- An entry is written exactly when its index is in range and, if it is valid, its page size is
legal (`45_privileged.md` R348, U2, U5). -/
theorem tlbWriteEntry_done {i : Nat} {s t : State} :
    tlbWriteEntry i s = .done t ↔
      i < s.tlb.length ∧ (writesValid s = true → legalPageSize s.params s.csr.tlbidx.ps = true) ∧
        t = { s with tlb := s.tlb.set i (entryFromCsrs s) } := by
  unfold tlbWriteEntry
  split
  · next h => simp [Nat.not_lt.2 h]
  · next h =>
    have h : i < s.tlb.length := Nat.lt_of_not_le h
    cases writesValid s <;> cases legalPageSize s.params s.csr.tlbidx.ps <;> simp [h, eq_comm]

/-- Writing an entry never traps. -/
theorem tlbWriteEntry_trap (i : Nat) (s : State) (r : Trap) : tlbWriteEntry i s ≠ .trap r := by
  unfold tlbWriteEntry
  split
  · simp
  · split <;> simp

/-- INVTLB changes only E (R350). -/
theorem mem_invalidate {op : BitVec 5} {asid : BitVec 10} {va : Word} {tlb : List TlbEntry}
    {t : TlbEntry} (h : t ∈ invalidate op asid va tlb) :
    ∃ u ∈ tlb, t = u ∨ t = { u with e := false } := by
  obtain ⟨u, hu, rfl⟩ := List.mem_map.1 h
  refine ⟨u, hu, ?_⟩
  split <;> simp

@[simp] theorem length_invalidate (op : BitVec 5) (asid : BitVec 10) (va : Word)
    (tlb : List TlbEntry) : (invalidate op asid va tlb).length = tlb.length := by simp [invalidate]

/-! Divisions, branches, the timer: what they leave. -/

theorem divideNext_eq (rd : Reg) (d v : Word) (s : State) :
    divideNext rd d v s =
      { writeNext rd (if d = 0#32 then Config.divByZeroResult s.draws else v) s with
        draws := if d = 0#32 then s.draws + 1 else s.draws } := by
  unfold divideNext
  split <;> rfl

theorem branchIf_eq {w : Nat} (c : Bool) (offs : BitVec w) (s : State) :
    branchIf c offs s = s.setPc (if c then branchTarget offs s else s.pc + 4#32) := by
  cases c <;> rfl

theorem loadTimer_eq (c : Tcfg) (s : State) :
    loadTimer c s =
      { s with
        csr := { s.csr with tcfg := c }
        timerCnt := if c.en then c.initVal ++ 0#2 else s.timerCnt
        timerRunning := c.en } := by
  unfold loadTimer
  split
  · next h => simp [h]
  · next h => simp [Bool.eq_false_of_not_eq_true h]

/-- A tick changes the counter, the timer, its latch and the count of draws, and nothing else. -/
theorem tick_frame (s : State) :
    (tick s).gpr = s.gpr ∧ (tick s).pc = s.pc ∧ (tick s).llbit = s.llbit ∧ (tick s).tlb = s.tlb ∧
      (tick s).idleWait = s.idleWait ∧ (tick s).hwi = s.hwi ∧ (tick s).ipi = s.ipi ∧
      (tick s).mem = s.mem ∧ (tick s).inputs = s.inputs ∧ (tick s).params = s.params ∧
      (tick s).stableCounter = s.stableCounter + 1#64 ∧
      ∃ b, (tick s).csr = { s.csr with estat := { s.csr.estat with ti := b } } := by
  unfold tick timerTick
  split
  · split
    · split <;> exact ⟨rfl, rfl, rfl, rfl, rfl, rfl, rfl, rfl, rfl, rfl, rfl, _, rfl⟩
    · exact ⟨rfl, rfl, rfl, rfl, rfl, rfl, rfl, rfl, rfl, rfl, rfl, s.csr.estat.ti, rfl⟩
  · exact ⟨rfl, rfl, rfl, rfl, rfl, rfl, rfl, rfl, rfl, rfl, rfl, s.csr.estat.ti, rfl⟩

/-- Some ticks change what one can, and the counter counts them. -/
theorem ticks_frame (n : Nat) (s : State) :
    (ticks n s).gpr = s.gpr ∧ (ticks n s).pc = s.pc ∧ (ticks n s).llbit = s.llbit ∧
      (ticks n s).tlb = s.tlb ∧ (ticks n s).idleWait = s.idleWait ∧ (ticks n s).hwi = s.hwi ∧
      (ticks n s).ipi = s.ipi ∧ (ticks n s).mem = s.mem ∧ (ticks n s).inputs = s.inputs ∧
      (ticks n s).params = s.params ∧
      (ticks n s).stableCounter = s.stableCounter + BitVec.ofNat 64 n ∧
      ∃ b, (ticks n s).csr = { s.csr with estat := { s.csr.estat with ti := b } } := by
  induction n generalizing s with
  | zero =>
    exact ⟨rfl, rfl, rfl, rfl, rfl, rfl, rfl, rfl, rfl, rfl, by simp [ticks], s.csr.estat.ti, rfl⟩
  | succ n ih =>
    obtain ⟨h1, h2, h3, h4, h5, h6, h7, h8, h9, h10, h11, b, h12⟩ := tick_frame s
    obtain ⟨g1, g2, g3, g4, g5, g6, g7, g8, g9, g10, g11, c, g12⟩ := ih (tick s)
    simp only [ticks]
    refine ⟨g1.trans h1, g2.trans h2, g3.trans h3, g4.trans h4, g5.trans h5, g6.trans h6, g7.trans h7,
      g8.trans h8, g9.trans h9, g10.trans h10, ?_, c, ?_⟩
    · rw [g11, h11, BitVec.add_assoc]
      congr 1
      apply BitVec.eq_of_toNat_eq
      simp [Nat.add_comm]
    · rw [g12, h12]

/-! CSRs. -/

/-- Every defined CSR is found under its number (`10_state.md` R31). -/
theorem csrNamed_csrNumber (c : CsrName) : csrNamed (csrNumber c) = some c := by
  cases c <;> decide

theorem csrRead_csrNumber (c : CsrName) (s : State) : csrRead (csrNumber c) s = csrWord c s := by
  simp [csrRead, csrNamed_csrNumber]

theorem csrWrite_csrNumber (c : CsrName) (value mask : Word) (s : State) :
    csrWrite (csrNumber c) value mask s =
      csrStore c (maskedWord (csrWord c s) value mask) (value &&& mask) s := by
  simp [csrWrite, csrNamed_csrNumber]

/-- A write to a CSR leaves the registers, the pc, memory, the TLB, the counter and the inputs. -/
theorem csrStore_frame (c : CsrName) (w ones : Word) (s : State) :
    (csrStore c w ones s).gpr = s.gpr ∧ (csrStore c w ones s).pc = s.pc ∧
      (csrStore c w ones s).tlb = s.tlb ∧ (csrStore c w ones s).stableCounter = s.stableCounter ∧
      (csrStore c w ones s).idleWait = s.idleWait ∧ (csrStore c w ones s).hwi = s.hwi ∧
      (csrStore c w ones s).ipi = s.ipi ∧ (csrStore c w ones s).mem = s.mem ∧
      (csrStore c w ones s).inputs = s.inputs ∧ (csrStore c w ones s).draws = s.draws ∧
      (csrStore c w ones s).params = s.params := by
  cases c <;> simp [csrStore, loadTimer_eq]

theorem csrWrite_frame (n : BitVec 14) (value mask : Word) (s : State) :
    (csrWrite n value mask s).gpr = s.gpr ∧ (csrWrite n value mask s).pc = s.pc ∧
      (csrWrite n value mask s).tlb = s.tlb ∧
      (csrWrite n value mask s).stableCounter = s.stableCounter ∧
      (csrWrite n value mask s).idleWait = s.idleWait ∧ (csrWrite n value mask s).hwi = s.hwi ∧
      (csrWrite n value mask s).ipi = s.ipi ∧ (csrWrite n value mask s).mem = s.mem ∧
      (csrWrite n value mask s).inputs = s.inputs ∧ (csrWrite n value mask s).draws = s.draws ∧
      (csrWrite n value mask s).params = s.params := by
  unfold csrWrite
  split
  · exact csrStore_frame _ _ _ _
  · exact ⟨rfl, rfl, rfl, rfl, rfl, rfl, rfl, rfl, rfl, rfl, rfl⟩

/-! Fetching. -/

/-- The instruction at the pc is the one its bytes decode to. -/
theorem fetchInstr_done {s : State} {i : Instr} :
    fetchInstr s = .done i ↔ ∃ bytes, fetchBytes s = .done bytes ∧ decodeBytes bytes = .instr i := by
  unfold fetchInstr
  rw [bind_done]
  constructor
  · rintro ⟨b, hb, h⟩
    refine ⟨b, hb, ?_⟩
    split at h <;> simp_all
  · rintro ⟨b, hb, h⟩
    exact ⟨b, hb, by simp [h]⟩

end Sys2Proof.Machine
end

