-- ==== Sys2Proof/Laws/PerInstr.lean ====
section
/-! SUPPORT. Statements about every instruction as syntax, one lemma per constructor. -/

namespace Sys2Proof.Laws

/-- The match and mask values of the opcode map (`30_encoding.md` R161), as the rule writes them. -/
def opcodeRow : Instr → Word × Word
  | .addW _ _ _ => (0x00100000, 0xFFFF8000)
  | .subW _ _ _ => (0x00110000, 0xFFFF8000)
  | .slt _ _ _ => (0x00120000, 0xFFFF8000)
  | .sltu _ _ _ => (0x00128000, 0xFFFF8000)
  | .nor _ _ _ => (0x00140000, 0xFFFF8000)
  | .and _ _ _ => (0x00148000, 0xFFFF8000)
  | .or _ _ _ => (0x00150000, 0xFFFF8000)
  | .xor _ _ _ => (0x00158000, 0xFFFF8000)
  | .orn _ _ _ => (0x00160000, 0xFFFF8000)
  | .andn _ _ _ => (0x00168000, 0xFFFF8000)
  | .sllW _ _ _ => (0x00170000, 0xFFFF8000)
  | .srlW _ _ _ => (0x00178000, 0xFFFF8000)
  | .sraW _ _ _ => (0x00180000, 0xFFFF8000)
  | .mulW _ _ _ => (0x001C0000, 0xFFFF8000)
  | .mulhW _ _ _ => (0x001C8000, 0xFFFF8000)
  | .mulhWu _ _ _ => (0x001D0000, 0xFFFF8000)
  | .divW _ _ _ => (0x00200000, 0xFFFF8000)
  | .modW _ _ _ => (0x00208000, 0xFFFF8000)
  | .divWu _ _ _ => (0x00210000, 0xFFFF8000)
  | .modWu _ _ _ => (0x00218000, 0xFFFF8000)
  | .slliW _ _ _ => (0x00408000, 0xFFFF8000)
  | .srliW _ _ _ => (0x00448000, 0xFFFF8000)
  | .sraiW _ _ _ => (0x00488000, 0xFFFF8000)
  | .slti _ _ _ => (0x02000000, 0xFFC00000)
  | .sltui _ _ _ => (0x02400000, 0xFFC00000)
  | .addiW _ _ _ => (0x02800000, 0xFFC00000)
  | .andi _ _ _ => (0x03400000, 0xFFC00000)
  | .ori _ _ _ => (0x03800000, 0xFFC00000)
  | .xori _ _ _ => (0x03C00000, 0xFFC00000)
  | .lu12iW _ _ => (0x14000000, 0xFE000000)
  | .pcaddu12i _ _ => (0x1C000000, 0xFE000000)
  | .ldB _ _ _ => (0x28000000, 0xFFC00000)
  | .ldH _ _ _ => (0x28400000, 0xFFC00000)
  | .ldW _ _ _ => (0x28800000, 0xFFC00000)
  | .stB _ _ _ => (0x29000000, 0xFFC00000)
  | .stH _ _ _ => (0x29400000, 0xFFC00000)
  | .stW _ _ _ => (0x29800000, 0xFFC00000)
  | .ldBu _ _ _ => (0x2A000000, 0xFFC00000)
  | .ldHu _ _ _ => (0x2A400000, 0xFFC00000)
  | .preld _ _ _ => (0x2AC00000, 0xFFC00000)
  | .llW _ _ _ => (0x20000000, 0xFF000000)
  | .scW _ _ _ => (0x21000000, 0xFF000000)
  | .dbar _ => (0x38720000, 0xFFFF8000)
  | .ibar _ => (0x38728000, 0xFFFF8000)
  | .jirl _ _ _ => (0x4C000000, 0xFC000000)
  | .b _ => (0x50000000, 0xFC000000)
  | .bl _ => (0x54000000, 0xFC000000)
  | .beq _ _ _ => (0x58000000, 0xFC000000)
  | .bne _ _ _ => (0x5C000000, 0xFC000000)
  | .blt _ _ _ => (0x60000000, 0xFC000000)
  | .bge _ _ _ => (0x64000000, 0xFC000000)
  | .bltu _ _ _ => (0x68000000, 0xFC000000)
  | .bgeu _ _ _ => (0x6C000000, 0xFC000000)
  | .rdcntvlW _ => (0x00006000, 0xFFFFFFE0)
  | .rdcntvhW _ => (0x00006400, 0xFFFFFFE0)
  | .rdcntid _ => (0x00006000, 0xFFFFFC1F)
  | .brk _ => (0x002A0000, 0xFFFF8000)
  | .syscall _ => (0x002B0000, 0xFFFF8000)
  | .csrrd _ _ => (0x04000000, 0xFF0003E0)
  | .csrwr _ _ => (0x04000020, 0xFF0003E0)
  | .csrxchg _ _ _ => (0x04000000, 0xFF000000)
  | .cacop _ _ _ => (0x06000000, 0xFFC00000)
  | .tlbsrch => (0x06482800, 0xFFFFFFFF)
  | .tlbrd => (0x06482C00, 0xFFFFFFFF)
  | .tlbwr => (0x06483000, 0xFFFFFFFF)
  | .tlbfill => (0x06483400, 0xFFFFFFFF)
  | .ertn => (0x06483800, 0xFFFFFFFF)
  | .invtlb _ _ _ => (0x06498000, 0xFFFF8000)
  | .idle _ => (0x06488000, 0xFFFF8000)

/-- A well-formed instruction's word has, under the mask of its row, the match value of its row. -/
def EncodingMatchesTable.Statement (i : Instr) : Prop :=
  i.wf = true → encode i &&& (opcodeRow i).2 = (opcodeRow i).1

/-! One lemma per format: which bits an instruction word has whatever its operands are. -/

theorem keep_kkz {m n p : Nat} (a : BitVec m) (b : BitVec n) (c : BitVec p) :
    (a ++ b ++ c) &&& (BitVec.allOnes m ++ BitVec.allOnes n ++ 0#p) =
      a ++ b ++ 0#p := by
  simp only [BitVec.and_append, BitVec.and_allOnes, BitVec.and_zero]

theorem keep_kz {m n : Nat} (a : BitVec m) (b : BitVec n) :
    (a ++ b) &&& (BitVec.allOnes m ++ 0#n) =
      a ++ 0#n := by
  simp only [BitVec.and_append, BitVec.and_allOnes, BitVec.and_zero]

theorem keep_kzk {m n p : Nat} (a : BitVec m) (b : BitVec n) (c : BitVec p) :
    (a ++ b ++ c) &&& (BitVec.allOnes m ++ 0#n ++ BitVec.allOnes p) =
      a ++ 0#n ++ c := by
  simp only [BitVec.and_append, BitVec.and_allOnes, BitVec.and_zero]

theorem keep_kzkz {m n p q : Nat} (a : BitVec m) (b : BitVec n) (c : BitVec p) (d : BitVec q) :
    (a ++ b ++ c ++ d) &&& (BitVec.allOnes m ++ 0#n ++ BitVec.allOnes p ++ 0#q) =
      a ++ 0#n ++ c ++ 0#q := by
  simp only [BitVec.and_append, BitVec.and_allOnes, BitVec.and_zero]

theorem keep_kzz {m n p : Nat} (a : BitVec m) (b : BitVec n) (c : BitVec p) :
    (a ++ b ++ c) &&& (BitVec.allOnes m ++ 0#n ++ 0#p) =
      a ++ 0#n ++ 0#p := by
  simp only [BitVec.and_append, BitVec.and_allOnes, BitVec.and_zero]

theorem keep_kzzz {m n p q : Nat} (a : BitVec m) (b : BitVec n) (c : BitVec p) (d : BitVec q) :
    (a ++ b ++ c ++ d) &&& (BitVec.allOnes m ++ 0#n ++ 0#p ++ 0#q) =
      a ++ 0#n ++ 0#p ++ 0#q := by
  simp only [BitVec.and_append, BitVec.and_allOnes, BitVec.and_zero]

theorem encode3R_row (op : BitVec 17) (a b c : BitVec 5) :
    encode3R op a b c &&& 0xFFFF8000#32 = encode3R op 0 0 0 := by
  have h : (0xFFFF8000#32 : Word) = BitVec.allOnes 17 ++ 0#5 ++ 0#5 ++ 0#5 := by decide
  rw [h]
  exact keep_kzzz op a b c

theorem encode2RI12_row (op : BitVec 10) (i : BitVec 12) (b c : BitVec 5) :
    encode2RI12 op i b c &&& 0xFFC00000#32 = encode2RI12 op 0 0 0 := by
  have h : (0xFFC00000#32 : Word) = BitVec.allOnes 10 ++ 0#12 ++ 0#5 ++ 0#5 := by decide
  rw [h]
  exact keep_kzzz op i b c

theorem encode2RI14_row (op : BitVec 8) (i : BitVec 14) (b c : BitVec 5) :
    encode2RI14 op i b c &&& 0xFF000000#32 = encode2RI14 op 0 0 0 := by
  have h : (0xFF000000#32 : Word) = BitVec.allOnes 8 ++ 0#14 ++ 0#5 ++ 0#5 := by decide
  rw [h]
  exact keep_kzzz op i b c

theorem encode2RI14_rj_row (op : BitVec 8) (i : BitVec 14) (b c : BitVec 5) :
    encode2RI14 op i b c &&& 0xFF0003E0#32 = encode2RI14 op 0 b 0 := by
  have h : (0xFF0003E0#32 : Word) = BitVec.allOnes 8 ++ 0#14 ++ BitVec.allOnes 5 ++ 0#5 := by decide
  rw [h]
  exact keep_kzkz op i b c

theorem encode2RI16_row (op : BitVec 6) (i : BitVec 16) (b c : BitVec 5) :
    encode2RI16 op i b c &&& 0xFC000000#32 = encode2RI16 op 0 0 0 := by
  have h : (0xFC000000#32 : Word) = BitVec.allOnes 6 ++ 0#16 ++ 0#5 ++ 0#5 := by decide
  rw [h]
  exact keep_kzzz op i b c

theorem encode1RI20_row (op : BitVec 7) (i : BitVec 20) (c : BitVec 5) :
    encode1RI20 op i c &&& 0xFE000000#32 = encode1RI20 op 0 0 := by
  have h : (0xFE000000#32 : Word) = BitVec.allOnes 7 ++ 0#20 ++ 0#5 := by decide
  rw [h]
  exact keep_kzz op i c

theorem encodeI26_row (op : BitVec 6) (i : BitVec 26) :
    encodeI26 op i &&& 0xFC000000#32 = encodeI26 op 0 := by
  have h : (0xFC000000#32 : Word) = BitVec.allOnes 6 ++ 0#16 ++ 0#10 := by decide
  rw [h]
  exact keep_kzz op (i.extractLsb' 0 16) (i.extractLsb' 16 10)

theorem encodeI15_row (op : BitVec 17) (i : BitVec 15) :
    encodeI15 op i &&& 0xFFFF8000#32 = encodeI15 op 0 := by
  have h : (0xFFFF8000#32 : Word) = BitVec.allOnes 17 ++ 0#15 := by decide
  rw [h]
  exact keep_kz op i

theorem encode2R_rd_row (op : BitVec 22) (b c : BitVec 5) :
    encode2R op b c &&& 0xFFFFFFE0#32 = encode2R op b 0 := by
  have h : (0xFFFFFFE0#32 : Word) = BitVec.allOnes 22 ++ BitVec.allOnes 5 ++ 0#5 := by decide
  rw [h]
  exact keep_kkz op b c

theorem encode2R_rj_row (op : BitVec 22) (b c : BitVec 5) :
    encode2R op b c &&& 0xFFFFFC1F#32 = encode2R op 0 c := by
  have h : (0xFFFFFC1F#32 : Word) = BitVec.allOnes 22 ++ 0#5 ++ BitVec.allOnes 5 := by decide
  rw [h]
  exact keep_kzk op b c

/-! The constructors. -/

theorem EncodingMatchesTable.addW (rd rj rk : Reg) : Statement (.addW rd rj rk) :=
  fun _ => (encode3R_row _ _ _ _).trans rfl
theorem EncodingMatchesTable.subW (rd rj rk : Reg) : Statement (.subW rd rj rk) :=
  fun _ => (encode3R_row _ _ _ _).trans rfl
theorem EncodingMatchesTable.slt (rd rj rk : Reg) : Statement (.slt rd rj rk) :=
  fun _ => (encode3R_row _ _ _ _).trans rfl
theorem EncodingMatchesTable.sltu (rd rj rk : Reg) : Statement (.sltu rd rj rk) :=
  fun _ => (encode3R_row _ _ _ _).trans rfl
theorem EncodingMatchesTable.nor (rd rj rk : Reg) : Statement (.nor rd rj rk) :=
  fun _ => (encode3R_row _ _ _ _).trans rfl
theorem EncodingMatchesTable.and (rd rj rk : Reg) : Statement (.and rd rj rk) :=
  fun _ => (encode3R_row _ _ _ _).trans rfl
theorem EncodingMatchesTable.or (rd rj rk : Reg) : Statement (.or rd rj rk) :=
  fun _ => (encode3R_row _ _ _ _).trans rfl
theorem EncodingMatchesTable.xor (rd rj rk : Reg) : Statement (.xor rd rj rk) :=
  fun _ => (encode3R_row _ _ _ _).trans rfl
theorem EncodingMatchesTable.orn (rd rj rk : Reg) : Statement (.orn rd rj rk) :=
  fun _ => (encode3R_row _ _ _ _).trans rfl
theorem EncodingMatchesTable.andn (rd rj rk : Reg) : Statement (.andn rd rj rk) :=
  fun _ => (encode3R_row _ _ _ _).trans rfl
theorem EncodingMatchesTable.sllW (rd rj rk : Reg) : Statement (.sllW rd rj rk) :=
  fun _ => (encode3R_row _ _ _ _).trans rfl
theorem EncodingMatchesTable.srlW (rd rj rk : Reg) : Statement (.srlW rd rj rk) :=
  fun _ => (encode3R_row _ _ _ _).trans rfl
theorem EncodingMatchesTable.sraW (rd rj rk : Reg) : Statement (.sraW rd rj rk) :=
  fun _ => (encode3R_row _ _ _ _).trans rfl
theorem EncodingMatchesTable.mulW (rd rj rk : Reg) : Statement (.mulW rd rj rk) :=
  fun _ => (encode3R_row _ _ _ _).trans rfl
theorem EncodingMatchesTable.mulhW (rd rj rk : Reg) : Statement (.mulhW rd rj rk) :=
  fun _ => (encode3R_row _ _ _ _).trans rfl
theorem EncodingMatchesTable.mulhWu (rd rj rk : Reg) : Statement (.mulhWu rd rj rk) :=
  fun _ => (encode3R_row _ _ _ _).trans rfl
theorem EncodingMatchesTable.divW (rd rj rk : Reg) : Statement (.divW rd rj rk) :=
  fun _ => (encode3R_row _ _ _ _).trans rfl
theorem EncodingMatchesTable.modW (rd rj rk : Reg) : Statement (.modW rd rj rk) :=
  fun _ => (encode3R_row _ _ _ _).trans rfl
theorem EncodingMatchesTable.divWu (rd rj rk : Reg) : Statement (.divWu rd rj rk) :=
  fun _ => (encode3R_row _ _ _ _).trans rfl
theorem EncodingMatchesTable.modWu (rd rj rk : Reg) : Statement (.modWu rd rj rk) :=
  fun _ => (encode3R_row _ _ _ _).trans rfl
theorem EncodingMatchesTable.slliW (rd rj : Reg) (ui5 : BitVec 5) : Statement (.slliW rd rj ui5) :=
  fun _ => (encode3R_row _ _ _ _).trans rfl
theorem EncodingMatchesTable.srliW (rd rj : Reg) (ui5 : BitVec 5) : Statement (.srliW rd rj ui5) :=
  fun _ => (encode3R_row _ _ _ _).trans rfl
theorem EncodingMatchesTable.sraiW (rd rj : Reg) (ui5 : BitVec 5) : Statement (.sraiW rd rj ui5) :=
  fun _ => (encode3R_row _ _ _ _).trans rfl
theorem EncodingMatchesTable.slti (rd rj : Reg) (si12 : BitVec 12) : Statement (.slti rd rj si12) :=
  fun _ => (encode2RI12_row _ _ _ _).trans rfl
theorem EncodingMatchesTable.sltui (rd rj : Reg) (si12 : BitVec 12) : Statement (.sltui rd rj si12) :=
  fun _ => (encode2RI12_row _ _ _ _).trans rfl
theorem EncodingMatchesTable.addiW (rd rj : Reg) (si12 : BitVec 12) : Statement (.addiW rd rj si12) :=
  fun _ => (encode2RI12_row _ _ _ _).trans rfl
theorem EncodingMatchesTable.andi (rd rj : Reg) (ui12 : BitVec 12) : Statement (.andi rd rj ui12) :=
  fun _ => (encode2RI12_row _ _ _ _).trans rfl
theorem EncodingMatchesTable.ori (rd rj : Reg) (ui12 : BitVec 12) : Statement (.ori rd rj ui12) :=
  fun _ => (encode2RI12_row _ _ _ _).trans rfl
theorem EncodingMatchesTable.xori (rd rj : Reg) (ui12 : BitVec 12) : Statement (.xori rd rj ui12) :=
  fun _ => (encode2RI12_row _ _ _ _).trans rfl
theorem EncodingMatchesTable.lu12iW (rd : Reg) (si20 : BitVec 20) : Statement (.lu12iW rd si20) :=
  fun _ => (encode1RI20_row _ _ _).trans rfl
theorem EncodingMatchesTable.pcaddu12i (rd : Reg) (si20 : BitVec 20) : Statement (.pcaddu12i rd si20) :=
  fun _ => (encode1RI20_row _ _ _).trans rfl
theorem EncodingMatchesTable.ldB (rd rj : Reg) (si12 : BitVec 12) : Statement (.ldB rd rj si12) :=
  fun _ => (encode2RI12_row _ _ _ _).trans rfl
theorem EncodingMatchesTable.ldH (rd rj : Reg) (si12 : BitVec 12) : Statement (.ldH rd rj si12) :=
  fun _ => (encode2RI12_row _ _ _ _).trans rfl
theorem EncodingMatchesTable.ldW (rd rj : Reg) (si12 : BitVec 12) : Statement (.ldW rd rj si12) :=
  fun _ => (encode2RI12_row _ _ _ _).trans rfl
theorem EncodingMatchesTable.stB (rd rj : Reg) (si12 : BitVec 12) : Statement (.stB rd rj si12) :=
  fun _ => (encode2RI12_row _ _ _ _).trans rfl
theorem EncodingMatchesTable.stH (rd rj : Reg) (si12 : BitVec 12) : Statement (.stH rd rj si12) :=
  fun _ => (encode2RI12_row _ _ _ _).trans rfl
theorem EncodingMatchesTable.stW (rd rj : Reg) (si12 : BitVec 12) : Statement (.stW rd rj si12) :=
  fun _ => (encode2RI12_row _ _ _ _).trans rfl
theorem EncodingMatchesTable.ldBu (rd rj : Reg) (si12 : BitVec 12) : Statement (.ldBu rd rj si12) :=
  fun _ => (encode2RI12_row _ _ _ _).trans rfl
theorem EncodingMatchesTable.ldHu (rd rj : Reg) (si12 : BitVec 12) : Statement (.ldHu rd rj si12) :=
  fun _ => (encode2RI12_row _ _ _ _).trans rfl
theorem EncodingMatchesTable.preld (hint : BitVec 5) (rj : Reg) (si12 : BitVec 12) : Statement (.preld hint rj si12) :=
  fun _ => (encode2RI12_row _ _ _ _).trans rfl
theorem EncodingMatchesTable.llW (rd rj : Reg) (si14 : BitVec 14) : Statement (.llW rd rj si14) :=
  fun _ => (encode2RI14_row _ _ _ _).trans rfl
theorem EncodingMatchesTable.scW (rd rj : Reg) (si14 : BitVec 14) : Statement (.scW rd rj si14) :=
  fun _ => (encode2RI14_row _ _ _ _).trans rfl
theorem EncodingMatchesTable.dbar (hint : BitVec 15) : Statement (.dbar hint) :=
  fun _ => (encodeI15_row _ _).trans rfl
theorem EncodingMatchesTable.ibar (hint : BitVec 15) : Statement (.ibar hint) :=
  fun _ => (encodeI15_row _ _).trans rfl
theorem EncodingMatchesTable.jirl (rd rj : Reg) (offs16 : BitVec 16) : Statement (.jirl rd rj offs16) :=
  fun _ => (encode2RI16_row _ _ _ _).trans rfl
theorem EncodingMatchesTable.b (offs26 : BitVec 26) : Statement (.b offs26) :=
  fun _ => (encodeI26_row _ _).trans rfl
theorem EncodingMatchesTable.bl (offs26 : BitVec 26) : Statement (.bl offs26) :=
  fun _ => (encodeI26_row _ _).trans rfl
theorem EncodingMatchesTable.beq (rj rd : Reg) (offs16 : BitVec 16) : Statement (.beq rj rd offs16) :=
  fun _ => (encode2RI16_row _ _ _ _).trans rfl
theorem EncodingMatchesTable.bne (rj rd : Reg) (offs16 : BitVec 16) : Statement (.bne rj rd offs16) :=
  fun _ => (encode2RI16_row _ _ _ _).trans rfl
theorem EncodingMatchesTable.blt (rj rd : Reg) (offs16 : BitVec 16) : Statement (.blt rj rd offs16) :=
  fun _ => (encode2RI16_row _ _ _ _).trans rfl
theorem EncodingMatchesTable.bge (rj rd : Reg) (offs16 : BitVec 16) : Statement (.bge rj rd offs16) :=
  fun _ => (encode2RI16_row _ _ _ _).trans rfl
theorem EncodingMatchesTable.bltu (rj rd : Reg) (offs16 : BitVec 16) : Statement (.bltu rj rd offs16) :=
  fun _ => (encode2RI16_row _ _ _ _).trans rfl
theorem EncodingMatchesTable.bgeu (rj rd : Reg) (offs16 : BitVec 16) : Statement (.bgeu rj rd offs16) :=
  fun _ => (encode2RI16_row _ _ _ _).trans rfl
theorem EncodingMatchesTable.rdcntvlW (rd : Reg) : Statement (.rdcntvlW rd) :=
  fun _ => (encode2R_rd_row _ _ _).trans rfl
theorem EncodingMatchesTable.rdcntvhW (rd : Reg) : Statement (.rdcntvhW rd) :=
  fun _ => (encode2R_rd_row _ _ _).trans rfl
theorem EncodingMatchesTable.rdcntid (rj : Reg) : Statement (.rdcntid rj) :=
  fun _ => (encode2R_rj_row _ _ _).trans rfl
theorem EncodingMatchesTable.brk (code : BitVec 15) : Statement (.brk code) :=
  fun _ => (encodeI15_row _ _).trans rfl
theorem EncodingMatchesTable.syscall (code : BitVec 15) : Statement (.syscall code) :=
  fun _ => (encodeI15_row _ _).trans rfl
theorem EncodingMatchesTable.csrrd (rd : Reg) (csr : BitVec 14) : Statement (.csrrd rd csr) :=
  fun _ => (encode2RI14_rj_row _ _ _ _).trans rfl
theorem EncodingMatchesTable.csrwr (rd : Reg) (csr : BitVec 14) : Statement (.csrwr rd csr) :=
  fun _ => (encode2RI14_rj_row _ _ _ _).trans rfl
theorem EncodingMatchesTable.csrxchg (rd rj : Reg) (csr : BitVec 14) : Statement (.csrxchg rd rj csr) :=
  fun _ => (encode2RI14_row _ _ _ _).trans rfl
theorem EncodingMatchesTable.cacop (code : BitVec 5) (rj : Reg) (si12 : BitVec 12) : Statement (.cacop code rj si12) :=
  fun _ => (encode2RI12_row _ _ _ _).trans rfl
theorem EncodingMatchesTable.tlbsrch : Statement .tlbsrch := fun _ => by decide
theorem EncodingMatchesTable.tlbrd : Statement .tlbrd := fun _ => by decide
theorem EncodingMatchesTable.tlbwr : Statement .tlbwr := fun _ => by decide
theorem EncodingMatchesTable.tlbfill : Statement .tlbfill := fun _ => by decide
theorem EncodingMatchesTable.ertn : Statement .ertn := fun _ => by decide
theorem EncodingMatchesTable.invtlb (op : BitVec 5) (rj rk : Reg) : Statement (.invtlb op rj rk) :=
  fun _ => (encode3R_row _ _ _ _).trans rfl
theorem EncodingMatchesTable.idle (hint : BitVec 15) : Statement (.idle hint) :=
  fun _ => (encodeI15_row _ _).trans rfl

end Sys2Proof.Laws
end

