-- ==== Sys2Proof/Laws/Step.lean ====
section
/-! SUPPORT. Once, everything that an instruction and a boundary can do: each next state of `exec` has
one of the forms of `Effect`, and each step is one of the four of `step_next`. -/

namespace Sys2Proof.Machine

/-- The next states that an instruction can have. -/
inductive Effect (i : Instr) (s : State) : State → Prop where
  | trap (x : Trap) : Effect i s (trapEntry x s.pc s)
  | skip : Effect i s s.advance
  | computes (rd : Reg) (v : Word) : Effect i s (writeNext rd v s)
  | divides (rd : Reg) (v : Word) : Effect i s { writeNext rd v s with draws := s.draws + 1 }
  | jumps (a : Word) : Effect i s (s.setPc a)
  | links (rd : Reg) (v a : Word) : Effect i s ((s.setReg rd v).setPc a)
  | stores (va pa : Word) (bytes : List Byte)
      (access : dataAccessOf i s = some (.store, bytes.length, va))
      (done : Sys2Proof.Machine.access .store bytes.length va s = .done pa) :
      Effect i s (s.storeBytes pa bytes).advance
  | loadLinked (rd rj : Reg) (si14 : BitVec 14) (v : Word) (is : i = .llW rd rj si14) :
      Effect i s { writeNext rd v s with llbit := true }
  | storeConditional (rd rj : Reg) (si14 : BitVec 14) (pa : Word) (is : i = .scW rd rj si14)
      (access : dataAccessOf i s = some (.store, 4, linkAddress rj si14 s))
      (done : Sys2Proof.Machine.access .store 4 (linkAddress rj si14 s) s = .done pa) :
      Effect i s { writeNext rd 1#32 (s.storeBytes pa (wordBytes (s.reg rd))) with llbit := false }
  | csr (rd : Reg) (n : BitVec 14) (mask : Word) (kernel : s.csr.crmd.plv = 0#2)
      (is : i = .csrwr rd n ∨ ∃ rj, i = .csrxchg rd rj n) :
      Effect i s (writeNext rd (csrRead n s) (csrWrite n (s.reg rd) mask s))
  | search (idx : TlbIdx) (kernel : s.csr.crmd.plv = 0#2) (is : i = .tlbsrch)
      (found : searchedIdx (tlbSearch s.csr.asid (s.csr.tlbehi ++ 0#13) s.tlb) s.csr.tlbidx =
        .done idx) :
      Effect i s { s with csr := { s.csr with tlbidx := idx } }.advance
  | readEntry (e : TlbEntry) (kernel : s.csr.crmd.plv = 0#2) (is : i = .tlbrd)
      (entry : s.tlb[s.csr.tlbidx.index.toNat]? = some e) :
      Effect i s { s with csr := readEntryCsrs s.params.tlbrdInvalidClears e s.csr }.advance
  | writeEntry (j n : Nat) (kernel : s.csr.crmd.plv = 0#2) (is : i = .tlbwr ∨ i = .tlbfill)
      (range : j < s.tlb.length)
      (legal : writesValid s = true → legalPageSize s.params s.csr.tlbidx.ps = true) :
      Effect i s { s with tlb := s.tlb.set j (entryFromCsrs s), draws := n }.advance
  | returns (kernel : s.csr.crmd.plv = 0#2) (is : i = .ertn) : Effect i s (trapReturn s)
  | invalidates (op : BitVec 5) (rj rk : Reg) (asid : BitVec 10) (va : Word)
      (kernel : s.csr.crmd.plv = 0#2) (is : i = .invtlb op rj rk) :
      Effect i s { s with tlb := invalidate op asid va s.tlb }.advance
  | waits (hint : BitVec 15) (kernel : s.csr.crmd.plv = 0#2) (is : i = .idle hint) :
      Effect i s { s.advance with idleWait := true }

theorem effect_of_load {i : Instr} {n : Nat} {va : Word} {f : Word → Word} {rd : Reg} {s t : State}
    (h : (load n va f rd s).outcome s = .next t) : Effect i s t := by
  rcases outcome_next.1 h with h | ⟨x, -, rfl⟩
  · obtain ⟨pa, -, rfl⟩ := load_done.1 h
    exact .computes rd _
  · exact .trap x

theorem effect_of_store {i : Instr} {va : Word} {bs : List Byte} {s t : State}
    (ha : dataAccessOf i s = some (.store, bs.length, va))
    (h : (store va bs s).outcome s = .next t) : Effect i s t := by
  rcases outcome_next.1 h with h | ⟨x, -, rfl⟩
  · obtain ⟨pa, hd, rfl⟩ := store_done.1 h
    exact .stores va pa bs ha hd
  · exact .trap x

theorem effect_of_divide {i : Instr} {rd : Reg} {d v : Word} {s : State} :
    Effect i s (divideNext rd d v s) := by
  unfold divideNext
  split
  · exact .divides rd _
  · exact .computes rd v

theorem effect_of_branch {i : Instr} {w : Nat} {c : Bool} {offs : BitVec w} {s : State} :
    Effect i s (branchIf c offs s) := by
  rw [branchIf_eq]
  exact .jumps _

/-- A privileged instruction has the effect of its body, or is a trap. -/
theorem effect_of_privileged {i : Instr} {s t : State} {body : Attempt State}
    (h : privileged s body = .next t)
    (he : s.csr.crmd.plv = 0#2 → ∀ u, body = .done u → Effect i s u) : Effect i s t := by
  rcases privileged_next h with ⟨hp, h⟩ | ⟨-, rfl⟩
  · rcases outcome_next.1 h with h | ⟨x, -, rfl⟩
    · exact he hp t h
    · exact .trap x
  · exact .trap .ipe

/-- Everything that an instruction can do when it completes. -/
theorem exec_next {i : Instr} {s t : State} (h : exec i s = .next t) : Effect i s t := by
  cases i
  case divW | modW | divWu | modWu => cases h; exact effect_of_divide
  case beq | bne | blt | bge | bltu | bgeu => cases h; exact effect_of_branch
  case b => cases h; exact .jumps _
  case bl | jirl => cases h; exact .links _ _ _
  case ldB | ldH | ldW | ldBu | ldHu => exact effect_of_load h
  case stB | stH | stW => exact effect_of_store rfl h
  case preld | dbar | ibar => cases h; exact .skip
  case syscall | brk => cases h; exact .trap _
  case llW rd rj si14 =>
    rcases outcome_next.1 h with h | ⟨x, -, rfl⟩
    · obtain ⟨u, hu, e⟩ := bind_done.1 h
      obtain ⟨pa, -, rfl⟩ := load_done.1 hu
      cases e
      exact .loadLinked rd rj si14 _ rfl
    · exact .trap x
  case scW rd rj si14 =>
    simp only [exec, execScW] at h
    split at h
    · split at h
      · next hl =>
        rcases outcome_next.1 h with h | ⟨x, -, rfl⟩
        · obtain ⟨pa, hd, rfl⟩ := storeConditional_done.1 h
          exact .storeConditional rd rj si14 pa rfl (by simp [dataAccessOf, hl]) hd
        · exact .trap x
      · cases h; exact .computes rd _
    · cases h; exact .trap _
  case csrrd rd n => exact effect_of_privileged h fun _ u e => by cases e; exact .computes rd _
  case csrwr rd n => exact effect_of_privileged h fun hp u e => by cases e; exact .csr rd n _ hp (.inl rfl)
  case csrxchg rd rj n =>
    exact effect_of_privileged h fun hp u e => by cases e; exact .csr rd n _ hp (.inr ⟨rj, rfl⟩)
  case cacop => exact effect_of_privileged h fun _ u e => by cases e; exact .skip
  case tlbsrch =>
    refine effect_of_privileged h fun hp u e => ?_
    obtain ⟨idx, hi, e⟩ := bind_done.1 e
    cases e
    exact .search idx hp rfl hi
  case tlbrd =>
    refine effect_of_privileged h fun hp u e => ?_
    split at e
    · next he => cases e; exact .readEntry _ hp rfl he
    · cases e
  case tlbwr =>
    refine effect_of_privileged h fun hp u e => ?_
    obtain ⟨v, hv, e⟩ := bind_done.1 e
    obtain ⟨hr, hl, rfl⟩ := tlbWriteEntry_done.1 hv
    cases e
    exact .writeEntry _ s.draws hp (.inl rfl) hr hl
  case tlbfill =>
    refine effect_of_privileged h fun hp u e => ?_
    obtain ⟨v, hv, e⟩ := bind_done.1 e
    obtain ⟨hr, hl, rfl⟩ := tlbWriteEntry_done.1 hv
    cases e
    exact .writeEntry _ (s.draws + 1) hp (.inr rfl) hr hl
  case ertn => exact effect_of_privileged h fun hp u e => by cases e; exact .returns hp rfl
  case invtlb op rj rk =>
    simp only [exec, execInvtlb] at h
    split at h
    · cases h; exact .trap _
    · exact effect_of_privileged h fun hp u e => by cases e; exact .invalidates op rj rk _ _ hp rfl
  case idle hint => exact effect_of_privileged h fun hp u e => by cases e; exact .waits hint hp rfl
  all_goals cases h; exact .computes _ _

/-- Everything that a step can do when it completes: reset or an interrupt or waiting at the boundary,
an instruction, or a trap of its fetch. -/
theorem step_next {s t : State} (h : step s = .next t) :
    boundary s = .settled t ∨
      (∃ e i, boundary s = .ready e ∧ fetchInstr e = .done i ∧ exec i e = .next t) ∨
      ∃ e x, boundary s = .ready e ∧ fetchInstr e = .trap x ∧ t = trapEntry x e.pc e := by
  unfold step at h
  split at h
  · next hb => cases h; exact .inl hb
  · next e hb =>
    split at h
    · next i hf => exact .inr (.inl ⟨e, i, hb, hf, h⟩)
    · next x hf => cases h; exact .inr (.inr ⟨e, x, hb, hf, rfl⟩)
    · cases h
    · cases h

/-- A boundary that lets an instruction be fetched: no reset, and the state the environment leaves. -/
theorem boundary_ready {s e : State} (h : boundary s = .ready e) :
    resetAsserted s = false ∧ e = { environment s with idleWait := false } := by
  unfold boundary at h
  split at h
  · cases h
  · next hr =>
    unfold interruptDecision at h
    split at h
    · cases h
    · split at h
      · cases h
      · cases h; exact ⟨Bool.eq_false_of_not_eq_true hr, rfl⟩

/-- A boundary that is a whole step: reset, waiting, or an interrupt. -/
theorem boundary_settled {s t : State} (h : boundary s = .settled t) :
    (resetAsserted s = true ∧ t = assertReset (environment s)) ∨
      (resetAsserted s = false ∧ t = environment s) ∨
      (resetAsserted s = false ∧
        t = trapEntry .int (environment s).pc { environment s with idleWait := false }) := by
  unfold boundary at h
  split at h
  · next hr => cases h; exact .inl ⟨hr, rfl⟩
  · next hr =>
    have hr := Bool.eq_false_of_not_eq_true hr
    unfold interruptDecision at h
    split at h
    · cases h; exact .inr (.inl ⟨hr, rfl⟩)
    · split at h
      · cases h; exact .inr (.inr ⟨hr, rfl⟩)
      · cases h

/-- What the environment does at a boundary, and what it leaves. -/
theorem environment_frame (s : State) :
    (environment s).gpr = s.gpr ∧ (environment s).pc = s.pc ∧ (environment s).llbit = s.llbit ∧
      (environment s).tlb = s.tlb ∧ (environment s).idleWait = s.idleWait ∧
      (environment s).mem = s.mem ∧ (environment s).params = s.params ∧
      ∃ b, (environment s).csr = { s.csr with estat := { s.csr.estat with ti := b } } := by
  unfold environment
  split
  · exact ⟨rfl, rfl, rfl, rfl, rfl, rfl, rfl, s.csr.estat.ti, rfl⟩
  · next i rest _ =>
    obtain ⟨h1, h2, h3, h4, h5, -, -, h8, -, h10, -, h12⟩ := ticks_frame i.ticks s
    exact ⟨h1, h2, h3, h4, h5, h8, h10, h12⟩

/-- Where nothing happens at the boundary, the step is the instruction at the pc. -/
theorem quiet_step {s : State} (q : Quiet s) :
    step s =
      match fetchInstr s with
      | .done i => exec i s
      | .trap x => .next (trapEntry x s.pc s)
      | .fault f => .fault f
      | .refuse r => .refused r := by
  obtain ⟨h1, h2, h3⟩ := q
  have he : environment s = s := by simp [environment, h1]
  have hr : resetAsserted s = false := by simp [resetAsserted, h1]
  have hs : { s with idleWait := false } = s := by cases s; simp_all
  have hb : boundary s = .ready s := by
    simp only [boundary, hr, he, interruptDecision, h2, hs]
    rcases h3 with h3 | h3 <;> simp [h3]
  cases hf : fetchInstr s <;> simp only [step, hb, hf]

/-- A field with zero bits below it, as a number. -/
theorem toNat_append_zeros {m : Nat} (v : BitVec m) (n : Nat) : (v ++ 0#n).toNat = 2 ^ n * v.toNat := by
  rw [BitVec.toNat_append]
  simp [Nat.shiftLeft_eq, Nat.mul_comm]

/-- Taking a trap, in the words of `60_exceptions.md` R420 to R425. -/
theorem enters_trapEntry (x : Trap) (s : State) :
    Enters x.ecode.toNat x.esubcode.toNat x.badAddress x.pageAddress s (trapEntry x s.pc s) where
  pplv := rfl
  pie := rfl
  plv := rfl
  ie := rfl
  da := by cases x <;> simp [trapCsrs, Trap.isRefill, Trap.ecode]
  pg := by cases x <;> simp [trapCsrs, Trap.isRefill, Trap.ecode]
  mats := ⟨rfl, rfl⟩
  era := rfl
  ecode := rfl
  esubcode := rfl
  status := ⟨rfl, rfl⟩
  badv := by cases x <;> rfl
  page := by
    cases x <;>
      simp [trapCsrs, Trap.pageAddress, Nat.shiftRight_eq_div_pow] <;> omega
  others := rfl
  pc := by cases x <;> exact toNat_append_zeros _ 6
  regs := fun _ => rfl
  mem := fun _ => rfl
  llbit := rfl
  tlb := rfl
  draws := rfl
  outside := ⟨rfl, rfl, rfl, rfl, rfl, rfl, rfl, rfl⟩

/-- The end of an instruction that computes a register, in the words of the statements. -/
theorem computesReg_writeNext (rd : Reg) (v : Word) (s : State) : ComputesReg rd v s (writeNext rd v s) where
  regs := fun r => reg_writeNext s rd r v
  pc := by simp [writeNext, State.advance, State.setPc, State.setReg]
  mem := fun _ => rfl
  llbit := rfl
  draws := rfl
  system := ⟨rfl, rfl, ⟨rfl, rfl, rfl, rfl, rfl, rfl, rfl, rfl⟩⟩

/-! Runs. -/

/-- A run ends where the pc is `END_PC`. -/
theorem runsTo_ended {endPc : Word} {s t : State} (h : RunsTo endPc s t) : Ended endPc t := by
  induction h with
  | ended h => exact h
  | next _ _ _ ih => exact ih

/-- A run ends in one state only. -/
theorem runsTo_unique {endPc : Word} {s t u : State} (h : RunsTo endPc s t) (k : RunsTo endPc s u) :
    t = u := by
  induction h with
  | ended h =>
    cases k with
    | ended => rfl
    | next hn => exact absurd h hn
  | next hn hs _ ih =>
    cases k with
    | ended h => exact absurd h hn
    | next _ hs' k =>
      rw [hs] at hs'
      exact ih (Host.Outcome.next.inj hs' ▸ k)

end Sys2Proof.Machine
end

