-- ==== Sys2Proof/Tests/Slice0.lean ====
section
/-! SUPPORT. Tests. Every expected value is the spec's: the example lines of the instruction rules
(`40_integer.md` to `45_privileged.md`), and the vectors of `96_trap_vectors.md` sections 4.1 to 4.5.
Then, for every statement with hypotheses, a witness: states and operands that meet them. -/

namespace Sys2Proof.Tests
open Sys2Proof.Machine

/-! Which terms are instructions: one ill-formed term for each check, and the boundary. -/

theorem test_csrxchg_rj0_ill_formed : (Instr.csrxchg 12 0 6).wf = false := by decide
theorem test_csrxchg_rj1_ill_formed : (Instr.csrxchg 12 1 6).wf = false := by decide
theorem test_rdcntid_rj0_ill_formed : (Instr.rdcntid 0).wf = false := by decide
theorem test_invtlb_op7_ill_formed : (Instr.invtlb 7 12 13).wf = false := by decide

/-! Decoding: the words of the example lines, each with the instruction the line names. -/

theorem test_decode_arithmetic :
    [0x001039AC, 0x001118A4, 0x02BFC063, 0x0012148C, 0x0012948C, 0x023FFC8C, 0x0240218D].map decodeWord =
      [.instr (.addW 12 13 14), .instr (.subW 4 5 6), .instr (.addiW 3 3 0xFF0), .instr (.slt 12 4 5),
        .instr (.sltu 12 4 5), .instr (.slti 12 4 0xFFF), .instr (.sltui 13 12 8)] := by decide

theorem test_decode_logic :
    [0x0014B9AC, 0x001539AC, 0x001439AC, 0x0015B9AC, 0x0016B9AC, 0x001639AC, 0x0343FDAC, 0x0399E18C,
      0x03FFFDAC].map decodeWord =
      [.instr (.and 12 13 14), .instr (.or 12 13 14), .instr (.nor 12 13 14), .instr (.xor 12 13 14),
        .instr (.andn 12 13 14), .instr (.orn 12 13 14), .instr (.andi 12 13 0x0FF),
        .instr (.ori 12 12 0x678), .instr (.xori 12 13 0xFFF)] := by decide

theorem test_decode_shifts_and_upper :
    [0x001739AC, 0x0017B9AC, 0x001839AC, 0x004089AC, 0x0044FDAC, 0x0048FDAC, 0x142468AC,
      0x1C00002C].map decodeWord =
      [.instr (.sllW 12 13 14), .instr (.srlW 12 13 14), .instr (.sraW 12 13 14),
        .instr (.slliW 12 13 2), .instr (.srliW 12 13 31), .instr (.sraiW 12 13 31),
        .instr (.lu12iW 12 0x12345), .instr (.pcaddu12i 12 1)] := by decide

theorem test_decode_muldiv :
    [0x001C39AC, 0x001CB9AC, 0x001D39AC, 0x002039AC, 0x0020B9AC, 0x002139AC, 0x0021B9AC].map decodeWord =
      [.instr (.mulW 12 13 14), .instr (.mulhW 12 13 14), .instr (.mulhWu 12 13 14),
        .instr (.divW 12 13 14), .instr (.modW 12 13 14), .instr (.divWu 12 13 14),
        .instr (.modWu 12 13 14)] := by decide

theorem test_decode_branches :
    [0x5800118D, 0x5FFFF98D, 0x6000118D, 0x6400118D, 0x6800118D, 0x6C00118D, 0x53FFF7FF, 0x54010000,
      0x4C000981].map decodeWord =
      [.instr (.beq 12 13 4), .instr (.bne 12 13 0xFFFE), .instr (.blt 12 13 4), .instr (.bge 12 13 4),
        .instr (.bltu 12 13 4), .instr (.bgeu 12 13 4), .instr (.b 0x3FFFFFD), .instr (.bl 0x40),
        .instr (.jirl 1 12 2)] := by decide

theorem test_decode_memory :
    [0x283FFDAC, 0x284011AC, 0x28801061, 0x2A3FFDAC, 0x2A4011AC, 0x290011AC, 0x294011AC, 0x29801061,
      0x2000088D, 0x21FFFC8C, 0x2AC10088].map decodeWord =
      [.instr (.ldB 12 13 0xFFF), .instr (.ldH 12 13 4), .instr (.ldW 1 3 4),
        .instr (.ldBu 12 13 0xFFF), .instr (.ldHu 12 13 4), .instr (.stB 12 13 4),
        .instr (.stH 12 13 4), .instr (.stW 1 3 4), .instr (.llW 13 4 2), .instr (.scW 12 4 0x3FFF),
        .instr (.preld 8 4 64)] := by decide

theorem test_decode_system :
    [0x38720000, 0x38728000, 0x002B0011, 0x002A0005, 0x0000600C, 0x0000640C, 0x00006180].map decodeWord =
      [.instr (.dbar 0), .instr (.ibar 0), .instr (.syscall 0x11), .instr (.brk 5),
        .instr (.rdcntvlW 12), .instr (.rdcntvhW 12), .instr (.rdcntid 12)] := by decide

theorem test_decode_privileged :
    [0x0400180C, 0x0400302C, 0x040001AC, 0x06004189, 0x06482800, 0x06482C00, 0x06483000, 0x06483400,
      0x06483800, 0x0649B585, 0x06488000].map decodeWord =
      [.instr (.csrrd 12 0x6), .instr (.csrwr 12 0xC), .instr (.csrxchg 12 13 0x0),
        .instr (.cacop 9 12 16), .instr .tlbsrch, .instr .tlbrd, .instr .tlbwr, .instr .tlbfill,
        .instr .ertn, .instr (.invtlb 5 12 13), .instr (.idle 0)] := by decide

/-- The words of `96_trap_vectors.md` 4.3 that raise INE at every level, with the model's reason; and
the control row, which is an XOR. -/
theorem test_decode_rejects :
    [0x06498007, 0x0649801F, 0x01008820, 0x2B000000, 0x00000000, 0xFFFFFFFF, 0x0000618C, 0x002201AC,
      0x06482000, 0x06483C00, 0x00158000].map decodeWord =
      [.reject .invtlbOp, .reject .invtlbOp, .reject (.floatingPoint .faddS), .reject .undefinedOpcode,
        .reject .undefinedOpcode, .reject .undefinedOpcode, .reject .rdcntForm, .reject .undefinedOpcode,
        .reject .undefinedOpcode, .reject .undefinedOpcode, .instr (.xor 0 0 0)] := by decide

/-- R165: the word that two rows share is RDCNTVL.W. -/
theorem test_decode_shared_word : decodeWord 0x00006000 = .instr (.rdcntvlW 0) := by decide

/-! One instruction on a small state. -/

/-- What a part of the state is after an instruction that completes. -/
def after {α : Type} (i : Instr) (s : State) (f : State → α) : Option α :=
  match exec i s with
  | .next t => some (f t)
  | _ => none

/-- What a part of the state is after a step that completes. -/
def afterStep {α : Type} (s : State) (f : State → α) : Option α :=
  match step s with
  | .next t => some (f t)
  | _ => none

/-- The state after reset with some registers and the pc set. -/
def start (pc : Word) (regs : List (Reg × Word)) : State :=
  (regs.foldl (fun t p => t.setReg p.1 p.2) State.reset).setPc pc

/-- x[12] after an instruction on x[13] and x[14]. -/
def result (i : Instr) (a b : Word) : Option Word :=
  after i (start 0x1C000000 [(13, a), (14, b)]) fun t => t.reg 12

theorem test_addW : result (.addW 12 13 14) 0x7FFFFFFF 1 = some 0x80000000 := by decide
theorem test_subW : result (.subW 12 13 14) 0 1 = some 0xFFFFFFFF := by decide
theorem test_addiW : result (.addiW 12 13 0xFF0) 0x1000 0 = some 0xFF0 := by decide
theorem test_slt : result (.slt 12 13 14) 0xFFFFFFFF 1 = some 1 := by decide
theorem test_sltu : result (.sltu 12 13 14) 0xFFFFFFFF 1 = some 0 := by decide
theorem test_slti : result (.slti 12 13 0xFFF) 0x80000000 0 = some 1 := by decide
theorem test_slti_equal : result (.slti 12 13 0xFFF) 0xFFFFFFFF 0 = some 0 := by decide
theorem test_sltui : result (.sltui 12 13 8) 7 0 = some 1 := by decide
theorem test_sltui_large : result (.sltui 12 13 8) 0xFFFFFFFE 0 = some 0 := by decide
theorem test_and : result (.and 12 13 14) 0x12345678 0x0000FFFF = some 0x00005678 := by decide
theorem test_or : result (.or 12 13 14) 0x12340000 0x00005678 = some 0x12345678 := by decide
theorem test_nor : result (.nor 12 13 14) 0x0000FF00 0x000000F0 = some 0xFFFF000F := by decide
theorem test_xor : result (.xor 12 13 14) 0xFFFF0000 0x0FF00FF0 = some 0xF00F0FF0 := by decide
theorem test_andn : result (.andn 12 13 14) 0x12345678 0x0000FFFF = some 0x12340000 := by decide
theorem test_orn : result (.orn 12 13 14) 0x12345678 0x0000FFFF = some 0xFFFF5678 := by decide
theorem test_andi : result (.andi 12 13 0x0FF) 0x12345678 0 = some 0x78 := by decide
theorem test_ori : result (.ori 12 13 0x678) 0x12345000 0 = some 0x12345678 := by decide
theorem test_xori : result (.xori 12 13 0xFFF) 0x12345678 0 = some 0x12345987 := by decide
theorem test_sllW : result (.sllW 12 13 14) 0x80000001 0x21 = some 2 := by decide
theorem test_srlW : result (.srlW 12 13 14) 0x80000000 4 = some 0x08000000 := by decide
theorem test_srlW_count32 : result (.srlW 12 13 14) 0x80000000 32 = some 0x80000000 := by decide
theorem test_sraW : result (.sraW 12 13 14) 0x80000000 4 = some 0xF8000000 := by decide
theorem test_slliW : result (.slliW 12 13 31) 3 0 = some 0x80000000 := by decide
theorem test_srliW : result (.srliW 12 13 31) 0x80000000 0 = some 1 := by decide
theorem test_sraiW : result (.sraiW 12 13 31) 0x80000000 0 = some 0xFFFFFFFF := by decide
theorem test_lu12iW : result (.lu12iW 12 0xFFFFF) 0 0 = some 0xFFFFF000 := by decide
theorem test_pcaddu12i :
    after (.pcaddu12i 12 0xFFFFF) (start 0x1C000010 []) (fun t => t.reg 12) = some 0x1BFFF010 := by decide
theorem test_mulW : result (.mulW 12 13 14) 0x12345678 0x9ABCDEF0 = some 0x242D2080 := by decide
theorem test_mulhW : result (.mulhW 12 13 14) 0x12345678 0x9ABCDEF0 = some 0xF8CC93D6 := by decide
theorem test_mulhWu : result (.mulhWu 12 13 14) 0x12345678 0x9ABCDEF0 = some 0x0B00EA4E := by decide
theorem test_divW : result (.divW 12 13 14) 7 0xFFFFFFFE = some 0xFFFFFFFD := by decide
theorem test_divW_overflow : result (.divW 12 13 14) 0x80000000 0xFFFFFFFF = some 0x80000000 := by decide
theorem test_modW : result (.modW 12 13 14) 7 0xFFFFFFFE = some 1 := by decide
theorem test_modW_negative : result (.modW 12 13 14) 0xFFFFFFF9 2 = some 0xFFFFFFFF := by decide
theorem test_divWu : result (.divWu 12 13 14) 0xFFFFFFF9 2 = some 0x7FFFFFFC := by decide
theorem test_modWu : result (.modWu 12 13 14) 0x80000000 0xFFFFFFFF = some 0x80000000 := by decide

/-- The pc after an instruction at 0x1C000100 on x[12] and x[13]. -/
def target (i : Instr) (a b : Word) : Option Word :=
  after i (start 0x1C000100 [(12, a), (13, b)]) fun t => t.pc

theorem test_beq : target (.beq 12 13 4) 5 5 = some 0x1C000110 := by decide
theorem test_beq_not_taken : target (.beq 12 13 4) 5 6 = some 0x1C000104 := by decide
theorem test_bne : target (.bne 12 13 0xFFFE) 5 6 = some 0x1C0000F8 := by decide
theorem test_blt : target (.blt 12 13 4) 0xFFFFFFFF 0 = some 0x1C000110 := by decide
theorem test_bge : target (.bge 12 13 4) 0x80000000 0x7FFFFFFF = some 0x1C000104 := by decide
theorem test_bltu : target (.bltu 12 13 4) 0xFFFFFFFF 0 = some 0x1C000104 := by decide
theorem test_bgeu : target (.bgeu 12 13 4) 0xFFFFFFFF 0 = some 0x1C000110 := by decide
theorem test_b : target (.b 0x3FFFFFD) 0 0 = some 0x1C0000F4 := by decide
theorem test_bl :
    after (.bl 0x40) (start 0x1C000010 []) (fun t => (t.reg 1, t.pc)) =
      some (0x1C000014, 0x1C000110) := by decide
theorem test_jirl :
    after (.jirl 1 12 2) (start 0x1C000020 [(12, 0x1C000400)]) (fun t => (t.reg 1, t.pc)) =
      some (0x1C000024, 0x1C000408) := by decide
/-- The link register is the base: the target uses its old value. -/
theorem test_jirl_same_register :
    after (.jirl 12 12 1) (start 0x1C000020 [(12, 0x1C000400)]) (fun t => (t.reg 12, t.pc)) =
      some (0x1C000024, 0x1C000404) := by decide

/-- x[12] after a load from x[13] = 0x1000, where the bytes `m` stand from 0x1000 on. -/
def loaded (i : Instr) (m : List Byte) : Option Word :=
  after i ((start 0x1C000000 [(13, 0x1000)]).storeBytes 0x1000 m) fun t => t.reg 12

theorem test_ldB : loaded (.ldB 12 13 0) [0x80] = some 0xFFFFFF80 := by decide
theorem test_ldBu : loaded (.ldBu 12 13 0) [0x80] = some 0x80 := by decide
theorem test_ldH : loaded (.ldH 12 13 4) [0, 0, 0, 0, 0x34, 0x82] = some 0xFFFF8234 := by decide
theorem test_ldHu : loaded (.ldHu 12 13 4) [0, 0, 0, 0, 0x34, 0x82] = some 0x8234 := by decide
theorem test_ldW : loaded (.ldW 12 13 0) [0x78, 0x56, 0x34, 0x12] = some 0x12345678 := by decide
theorem test_ldW_misaligned :
    after (.ldW 12 13 0) (start 0x1C000000 [(13, 0x1002)]) (fun t => (csrRead 0x5 t, t.csr.badv)) =
      some (0x00090000, 0x1002) := by decide

/-- Memory after a store of x[12] = 0x12345678 at 0x1004. -/
def stored (i : Instr) : Option (List Host.Cell) :=
  after i (start 0x1C000000 [(12, 0x12345678), (13, 0x1000)]) fun t => t.mem

theorem test_stB : stored (.stB 12 13 4) = some [(0x1004, 0x78)] := by decide
theorem test_stH : stored (.stH 12 13 4) = some [(0x1004, 0x78), (0x1005, 0x56)] := by decide
theorem test_stW :
    stored (.stW 12 13 4) = some [(0x1004, 0x78), (0x1005, 0x56), (0x1006, 0x34), (0x1007, 0x12)] := by
  decide
theorem test_stH_misaligned :
    after (.stH 12 4 0) (start 0x1C000100 [(4, 0x40002001)]) (fun t => (csrRead 0x5 t, t.csr.badv)) =
      some (0x00090000, 0x40002001) := by decide
theorem test_llW :
    after (.llW 13 4 2) ((start 0x1C000000 [(4, 0x1000)]).storeBytes 0x1008 [7])
      (fun t => (t.reg 13, t.llbit)) = some (7, true) := by decide
theorem test_scW :
    after (.scW 12 4 0) { start 0x1C000000 [(12, 5), (4, 0x1000)] with llbit := true }
      (fun t => (t.reg 12, t.llbit, t.mem)) = some (1, false, [(0x1000, 5)]) := by decide
theorem test_scW_fails :
    after (.scW 12 4 0) (start 0x1C000000 [(12, 5), (4, 0x1000)]) (fun t => (t.reg 12, t.mem)) =
      some (0, []) := by decide
theorem test_preld :
    after (.preld 0 4 1) (start 0x1C000100 [(4, 0xA0000002)]) (fun t => t.pc) = some 0x1C000104 := by decide
theorem test_dbar : after (.dbar 0) (start 0x1C000100 []) (fun t => t.pc) = some 0x1C000104 := by decide
theorem test_ibar : after (.ibar 0) (start 0x1C000100 []) (fun t => t.pc) = some 0x1C000104 := by decide

/-- The state after reset at a level, with the handlers and the saved values of `96_trap_vectors.md` 4.2,
at 0x1C000100. -/
def beforeTrap (crmd : Word) : State :=
  { start 0x1C000100 [] with
    csr :=
      { State.reset.csr with
        crmd := Crmd.ofWord crmd
        eentry := 0x700040
        tlbreentry := 0x700080
        era := 0x0EEE0000
        badv := 0x0BAD0000
        tlbehi := 0x770F }
    llbit := true }

theorem test_syscall :
    after (.syscall 0x11) (beforeTrap 0x8) (fun t => (csrRead 0x5 t, t.csr.era, t.pc)) =
      some (0x000B0000, 0x1C000100, 0x1C001000) := by decide
theorem test_break :
    after (.brk 0) (beforeTrap 0xC) (fun t => (csrRead 0x0 t, csrRead 0x1 t, csrRead 0x5 t)) =
      some (0x8, 0x4, 0x000C0000) := by decide
theorem test_rdcntvl :
    after (.rdcntvlW 12) { State.reset with stableCounter := 0x0000000123456789 } (fun t => t.reg 12) =
      some 0x23456789 := by decide
theorem test_rdcntvh :
    after (.rdcntvhW 12) { State.reset with stableCounter := 0x0000000123456789 } (fun t => t.reg 12) =
      some 1 := by decide
theorem test_rdcntid :
    after (.rdcntid 12) { State.reset with csr := { State.reset.csr with tid := 7 } }
      (fun t => t.reg 12) = some 7 := by decide
theorem test_csrrd_reset : after (.csrrd 12 0x0) State.reset (fun t => t.reg 12) = some 8 := by decide
theorem test_csrrd_user :
    after (.csrrd 12 0x0) (beforeTrap 0xB) (fun t => (csrRead 0x1 t, csrRead 0x5 t)) =
      some (0x3, 0x000E0000) := by decide
theorem test_csrwr :
    after (.csrwr 12 0xC) (start 0x1C000000 [(12, 0x1C008000)]) (fun t => (t.reg 12, csrRead 0xC t)) =
      some (0, 0x1C008000) := by decide
theorem test_csrxchg :
    after (.csrxchg 12 13 0x0) (start 0x1C000000 [(12, 4), (13, 4)]) (fun t => (t.reg 12, csrRead 0x0 t)) =
      some (8, 0xC) := by decide
theorem test_csrwr_tcfg :
    after (.csrwr 12 0x41) (start 0x1C000020 [(12, 0xD)]) (fun t => (t.timerCnt, t.timerRunning)) =
      some (12, true) := by decide
theorem test_cacop : after (.cacop 0 12 0) State.reset (fun t => t.pc) = some 0x1C000004 := by decide

/-! State T of `96_trap_vectors.md` 4.1, at a privilege level. -/

/-- One page of an entry, of memory type 1. -/
def page (v d : Bool) (plv : BitVec 2) (ppn : BitVec 20) : TlbPage :=
  { v := v, d := d, mat := 1, plv := plv, ppn := ppn }

/-- The four entries of state T. -/
def entriesT : List TlbEntry :=
  [{ e := true, asid := 5, g := false, ps := 12, vppn := 0x20001, page0 := page true true 3 0x1C010,
      page1 := page true false 3 0x1C011 },
    { e := true, asid := 5, g := false, ps := 12, vppn := 0x20002, page0 := page false true 3 0x1C012,
      page1 := page true false 0 0x1C013 },
    { e := true, asid := 0, g := true, ps := 21, vppn := 0x20200, page0 := page true true 3 0x1D000,
      page1 := page true true 3 0x1D3FF },
    { e := true, asid := 0, g := true, ps := 12, vppn := 0x60000, page0 := page true true 0 0x1C020,
      page1 := { v := false, d := false, mat := 0, plv := 0, ppn := 0 } }]

/-- State T with CRMD = 0x10 + plv and some registers; the code stands at 0x1C000100. -/
def stateT (plv : BitVec 2) (regs : List (Reg × Word)) : State :=
  { start 0x1C000100 regs with
    csr :=
      { (beforeTrap (0x10 + plv.setWidth 32)).csr with
        asid := 5
        dmw0 := Dmw.ofWord 0xA0000011
        dmw1 := Dmw.ofWord 0x00000019 }
    tlb := entriesT }

/-- The physical address of a translation that succeeds, or its trap. -/
def physical (kind : AccessKind) (va : Word) (s : State) : Option Word :=
  match translate kind va s with
  | .done r => some r.pa
  | _ => none

theorem test_translate_windows :
    (physical .load 0xA0001234 (stateT 0 []), physical .store 0x1C000010 (stateT 3 [])) =
      (some 0x00001234, some 0x1C000010) := by decide
theorem test_translate_pages :
    (physical .store 0x40002FFC (stateT 3 []), physical .load 0x40003008 (stateT 3 []),
        physical .load 0x40412345 (stateT 3 []), physical .load 0x40612345 (stateT 3 [])) =
      (some 0x1C010FFC, some 0x1C011008, some 0x1D012345, some 0x1D212345) := by decide
theorem test_translate_traps :
    [translate .load 0xA0001234 (stateT 3 []), translate .fetch 0xA0001234 (stateT 3 []),
        translate .store 0x40003008 (stateT 0 []), translate .load 0x40004000 (stateT 3 []),
        translate .store 0x40004000 (stateT 3 []), translate .fetch 0x40004000 (stateT 3 []),
        translate .store 0x40005000 (stateT 3 []), translate .load 0x40006000 (stateT 0 [])] =
      [.trap (.adem 0xA0001234), .trap (.adef 0xA0001234), .trap (.pme 0x40003008),
        .trap (.pil 0x40004000), .trap (.pis 0x40004000), .trap (.pif 0x40004000),
        .trap (.ppi 0x40005000), .trap (.tlbr 0x40006000)] := by decide

/-- The TLBR row of `96_trap_vectors.md` 4.2: BADV, TLBEHI, CRMD, and the refill entry. -/
theorem test_refill_entry :
    after (.ldW 12 4 4) (stateT 3 [(4, 0x40006000)])
      (fun t => (t.csr.badv, csrRead 0x11 t, csrRead 0x0 t, t.pc)) =
      some (0x40006004, 0x40006000, 0x8, 0x1C002000) := by decide

/-- TLBSRCH of VPPN 0x20200, a global entry, finds index 2 (R344, `96_trap_vectors.md` 4.1). -/
theorem test_tlbsrch :
    after .tlbsrch { stateT 0 [] with csr := { (stateT 0 []).csr with tlbehi := 0x20200 } }
      (fun t => (t.csr.tlbidx.index, t.csr.tlbidx.ne)) = some (2, false) := by decide
theorem test_tlbsrch_miss :
    after .tlbsrch { stateT 0 [] with csr := { (stateT 0 []).csr with tlbehi := 0x20003 } }
      (fun t => csrRead 0x10 t) = some 0x80000000 := by decide
/-- TLBRD of entry 1: TLBEHI, TLBELO1 and PS as the layouts of R40 to R42 show them. -/
theorem test_tlbrd :
    after .tlbrd
      { stateT 0 [] with
        csr := { (stateT 0 []).csr with tlbidx := { index := 1, ps := 0, ne := true } } }
      (fun t => (csrRead 0x10 t, csrRead 0x11 t, csrRead 0x13 t)) =
      some (0x0C000001, 0x40004000, 0x01C01311) := by decide

/-- State T with the CSRs of the second entry's page pair, to be written at index 0. -/
def writesT (ne : Bool) (ps : BitVec 6) : State :=
  { stateT 0 [] with
    csr :=
      { (stateT 0 []).csr with
        tlbidx := { index := 0, ps := ps, ne := ne }
        tlbehi := 0x20009
        tlbelo0 := TlbElo.ofWord 0x01C0135F
        tlbelo1 := TlbElo.ofWord 0x01C0141F } }

theorem test_tlbwr :
    after .tlbwr (writesT false 12) (fun t => t.tlb.map fun e => (e.e, e.vppn, e.g, e.page0.ppn)) =
      some [(true, 0x20009, false, 0x1C013), (true, 0x20002, false, 0x1C012),
        (true, 0x20200, true, 0x1D000), (true, 0x60000, true, 0x1C020)] := by decide
theorem test_tlbwr_invalid :
    after .tlbwr (writesT true 12) (fun t => t.tlb.map fun e => e.e) =
      some [false, true, true, true] := by decide
/-- TLBFILL of a TLB of one entry: the index is then known. -/
theorem test_tlbfill :
    after .tlbfill { writesT false 12 with tlb := [TlbEntry.empty] } (fun t => t.tlb.map fun e => e.e) =
      some [true] := by
  simp only [after, exec, execTlbfill, show (writesT false 12).csr.crmd.plv = 0#2 by decide, privileged,
    List.length_singleton, Nat.mod_one]
  decide
theorem test_ertn :
    after .ertn
      { State.reset with
        csr := { State.reset.csr with era := 0x1C00002C, prmd := { pplv := 0, pie := true } } }
      (fun t => (csrRead 0x0 t, t.pc)) = some (0xC, 0x1C00002C) := by decide
theorem test_ertn_refill :
    after .ertn
      { State.reset with
        llbit := true
        csr := { State.reset.csr with estat := { State.reset.csr.estat with ecode := 0x3F } } }
      (fun t => (csrRead 0x0 t, t.llbit)) = some (0x10, false) := by decide
/-- Op 5 clears the entry of ASID 5 that maps x[13], and no other. -/
theorem test_invtlb :
    after (.invtlb 5 12 13) (stateT 0 [(12, 5), (13, 0x40003FFF)]) (fun t => t.tlb.map fun e => e.e) =
      some [false, true, true, true] := by decide
theorem test_invtlb_op6 :
    after (.invtlb 6 12 13) (stateT 0 [(12, 0x405), (13, 0xC0001000)]) (fun t => t.tlb.map fun e => e.e) =
      some [true, true, true, false] := by decide
theorem test_idle :
    after (.idle 0) State.reset (fun t => (t.idleWait, t.pc)) = some (true, 0x1C000004) := by decide

/-! One step. -/

/-- A misaligned pc (`96_trap_vectors.md` 4.2). -/
theorem test_step_adef :
    afterStep ((beforeTrap 0x8).setPc 0x1C000102) (fun t => (csrRead 0x5 t, t.csr.era, t.csr.badv)) =
      some (0x00080000, 0x1C000102, 0x1C000102) := by decide
/-- A word that is no instruction, at PLV3 (4.2). -/
theorem test_step_ine :
    afterStep ((beforeTrap 0xF).withFetchWord 32 0xFFFFFFFF) (fun t => (csrRead 0x1 t, csrRead 0x5 t)) =
      some (0x7, 0x000D0000) := by decide
/-- Step 22 of the trace of 4.5: the tick finds the counter at 0, and the interrupt is taken. -/
theorem test_step_timer_interrupt :
    afterStep
      { start 0x1C00002C [] with
        timerRunning := true
        inputs := [{ ticks := 1, hwi := 0, ipi := false, reset := false }]
        csr :=
          { State.reset.csr with
            crmd := Crmd.ofWord 0xC
            ecfg := Ecfg.ofWord 0x800
            eentry := 0x700001
            tcfg := Tcfg.ofWord 32 0xD } }
      (fun t => (csrRead 0x1 t, t.csr.era, t.csr.estat.ti, t.timerRunning, t.pc)) =
      some (0x4, 0x1C00002C, true, false, 0x1C000040) := by decide
/-- A step in mapped mode fetches through DMW1 (4.1). -/
theorem test_step_mapped :
    afterStep ((stateT 3 []).withFetchWord 32 0x02800418) (fun t => (t.reg 24, t.pc)) =
      some (1, 0x1C000104) := by decide

/-! Witnesses: for each statement with hypotheses, states and operands that meet them, clause by clause,
at the ends of the ranges. -/

theorem after_some {α : Type} {i : Instr} {s : State} {f : State → α} {v : α} (h : after i s f = some v) :
    ∃ t, exec i s = .next t ∧ f t = v := by
  unfold after at h
  split at h
  · next t ht => exact ⟨t, ht, Option.some.inj h⟩
  · cases h

theorem afterStep_some {α : Type} {s : State} {f : State → α} {v : α} (h : afterStep s f = some v) :
    ∃ t, step s = .next t ∧ f t = v := by
  unfold afterStep at h
  split at h
  · next t ht => exact ⟨t, ht, Option.some.inj h⟩
  · cases h

/-- The map after reset makes every address memory. -/
theorem ram_everywhere (pa : Word) : regionAt Params.suggested pa = some .ram := by
  have h : pa.toNat < 4294967296 := pa.isLt
  simp [regionAt, Params.suggested, h]

theorem backed_everywhere {s : State} (h : s.params = Params.suggested) (n : Nat) (pa : Word) :
    Backed n pa s := fun k _ => by rw [h]; exact ram_everywhere _

/-- An aligned access that is translated succeeds over memory everywhere. -/
theorem reaches {kind : AccessKind} {n : Nat} {va pa : Word} {s : State} (hp : s.params = Params.suggested)
    (ha : va.toNat % n = 0) (ht : physical kind va s = some pa) : Reaches kind n va pa s := by
  refine ⟨ha, ?_, backed_everywhere hp n pa⟩
  unfold physical at ht
  split at ht
  · next r hr => exact ⟨r, hr, Option.some.inj ht⟩
  · cases ht

/-- A word at an aligned, translated pc is fetched. -/
theorem fetches {pa : Word} {s : State} {w : Word} (hp : s.params = Params.suggested)
    (ha : s.pc.toNat % 4 = 0) (ht : physical .fetch s.pc s = some pa) (hw : wordAt s pa = w.toNat) :
    Fetches s w := by
  obtain ⟨-, ⟨r, hr, rfl⟩, hb⟩ := reaches hp ha ht
  exact ⟨ha, r, hr, hb, hw⟩

/-- The upper field of a word that is 0. -/
theorem upper_zero {m n : Nat} {a : BitVec m} {b : BitVec n} (h : (a ++ b).toNat = 0) : a.toNat = 0 := by
  rw [BitVec.toNat_append, Nat.or_eq_zero_iff, Nat.shiftLeft_eq] at h
  exact (Nat.mul_eq_zero.1 h.1).resolve_right (Nat.two_pow_pos n).ne'

theorem encode3R_ne_zero {op : BitVec 17} (h : op.toNat ≠ 0) (rk rj rd : BitVec 5) :
    (encode3R op rk rj rd).toNat ≠ 0 := fun e => h (upper_zero (upper_zero (upper_zero e)))

theorem encode2RI12_ne_zero {op : BitVec 10} (h : op.toNat ≠ 0) (imm : BitVec 12) (rj rd : BitVec 5) :
    (encode2RI12 op imm rj rd).toNat ≠ 0 := fun e => h (upper_zero (upper_zero (upper_zero e)))

theorem encode2RI14_ne_zero {op : BitVec 8} (h : op.toNat ≠ 0) (imm : BitVec 14) (rj rd : BitVec 5) :
    (encode2RI14 op imm rj rd).toNat ≠ 0 := fun e => h (upper_zero (upper_zero (upper_zero e)))

theorem encode2RI16_ne_zero {op : BitVec 6} (h : op.toNat ≠ 0) (imm : BitVec 16) (rj rd : BitVec 5) :
    (encode2RI16 op imm rj rd).toNat ≠ 0 := fun e => h (upper_zero (upper_zero (upper_zero e)))

theorem encode1RI20_ne_zero {op : BitVec 7} (h : op.toNat ≠ 0) (imm : BitVec 20) (rd : BitVec 5) :
    (encode1RI20 op imm rd).toNat ≠ 0 := fun e => h (upper_zero (upper_zero e))

theorem encodeI26_ne_zero {op : BitVec 6} (h : op.toNat ≠ 0) (imm : BitVec 26) :
    (encodeI26 op imm).toNat ≠ 0 := fun e => h (upper_zero (upper_zero e))

theorem encodeI15_ne_zero {op : BitVec 17} (h : op.toNat ≠ 0) (imm : BitVec 15) :
    (encodeI15 op imm).toNat ≠ 0 := fun e => h (upper_zero e)

theorem encode2R_ne_zero {op : BitVec 22} (h : op.toNat ≠ 0) (rj rd : BitVec 5) :
    (encode2R op rj rd).toNat ≠ 0 := fun e => h (upper_zero (upper_zero e))

/-- No instruction has the word 0: no opcode is 0. -/
theorem encode_ne_zero (i : Instr) : encode i ≠ 0#32 := by
  suffices h : (encode i).toNat ≠ 0 from fun e => h (congrArg BitVec.toNat e)
  cases i
  case slti | sltui | addiW | andi | ori | xori | ldB | ldH | ldW | stB | stH | stW | ldBu | ldHu |
      preld | cacop => exact encode2RI12_ne_zero (by decide) _ _ _
  case llW | scW | csrrd | csrwr | csrxchg => exact encode2RI14_ne_zero (by decide) _ _ _
  case jirl | beq | bne | blt | bge | bltu | bgeu => exact encode2RI16_ne_zero (by decide) _ _ _
  case lu12iW | pcaddu12i => exact encode1RI20_ne_zero (by decide) _ _
  case b | bl => exact encodeI26_ne_zero (by decide) _
  case dbar | ibar | brk | syscall | idle => exact encodeI15_ne_zero (by decide) _
  case rdcntvlW | rdcntvhW | rdcntid => exact encode2R_ne_zero (by decide) _ _
  case tlbsrch | tlbrd | tlbwr | tlbfill | ertn => decide
  all_goals exact encode3R_ne_zero (by decide) _ _ _

theorem witness_DecodeEncodeAgree :
    (Instr.csrxchg 12 2 0).wf = true ∧ (Instr.rdcntid 1).wf = true ∧ (Instr.invtlb 6 0 0).wf = true := by
  decide

theorem witness_EncodeDecodeAgree : decodeWord 0x040001AC = .instr (.csrxchg 12 13 0) := by decide

theorem witness_UndefinedWordRaisesIne :
    Quiet State.reset ∧ Fetches State.reset 0 ∧ ∀ i : Instr, i.wf = true → encode i ≠ 0 :=
  ⟨⟨rfl, rfl, .inl rfl⟩, fetches rfl (by decide) (pa := 0x1C000000) (by decide) (by decide),
    fun i _ => encode_ne_zero i⟩

theorem witness_DivideAndRemainder :
    (start 0 [(14, 1)]).reg 14 ≠ 0 ∧ (start 0 [(14, 0xFFFFFFFF)]).reg 14 ≠ 0 ∧
      (start 0 []).reg 14 = 0 := by decide

theorem witness_MisalignedJumpTarget :
    Quiet (start 0 [(12, 1)]) ∧ (wordsFrom ((start 0 [(12, 1)]).reg 12) 0xFFFF#16).toNat % 4 ≠ 0 ∧
      (wordsFrom ((start 0 [(12, 3)]).reg 12) 0x0001#16).toNat % 4 ≠ 0 :=
  ⟨⟨rfl, rfl, .inl rfl⟩, by decide, by decide⟩

/-- The last byte, halfword and word of the space, a page of the TLB, and misaligned addresses. -/
theorem witness_Loads :
    Reaches .load 1 (dataAddress 13 0xFFF (start 0 [])) 0xFFFFFFFF (start 0 []) ∧
      Reaches .load 2 (dataAddress 13 0xFFE (start 0 [])) 0xFFFFFFFE (start 0 []) ∧
      Reaches .load 4 (dataAddress 13 0xFFC (start 0 [])) 0xFFFFFFFC (start 0 []) ∧
      Reaches .load 4 (dataAddress 4 8 (stateT 3 [(4, 0x40003000)])) 0x1C011008
        (stateT 3 [(4, 0x40003000)]) ∧
      (dataAddress 13 1 (start 0 [])).toNat % 2 ≠ 0 ∧ (dataAddress 13 2 (start 0 [])).toNat % 4 ≠ 0 ∧
      (dataAddress 13 0xFFF (start 0 [])).toNat % 4 ≠ 0 :=
  ⟨reaches rfl (by decide) (by decide), reaches rfl (by decide) (by decide),
    reaches rfl (by decide) (by decide), reaches rfl (by decide) (by decide), by decide, by decide,
    by decide⟩

theorem witness_Stores :
    Reaches .store 1 (dataAddress 13 0xFFF (start 0 [])) 0xFFFFFFFF (start 0 []) ∧
      Reaches .store 2 (dataAddress 13 0xFFE (start 0 [])) 0xFFFFFFFE (start 0 []) ∧
      Reaches .store 4 (dataAddress 13 0xFFC (start 0 [])) 0xFFFFFFFC (start 0 []) ∧
      Reaches .store 4 (dataAddress 4 8 (stateT 3 [(4, 0x40002000)])) 0x1C010008
        (stateT 3 [(4, 0x40002000)]) ∧
      (dataAddress 13 1 (start 0 [])).toNat % 2 ≠ 0 ∧ (dataAddress 13 2 (start 0 [])).toNat % 4 ≠ 0 ∧
      (dataAddress 13 0xFFF (start 0 [])).toNat % 4 ≠ 0 :=
  ⟨reaches rfl (by decide) (by decide), reaches rfl (by decide) (by decide),
    reaches rfl (by decide) (by decide), reaches rfl (by decide) (by decide), by decide, by decide,
    by decide⟩

theorem witness_LoadLinked :
    Reaches .load 4 (linkAddress 4 0x3FFF (start 0 [])) 0xFFFFFFFC (start 0 []) ∧
      ((linkAddress 4 0 (stateT 3 [(4, 0x40006000)])).toNat % 4 = 0 ∧
        translate .load (linkAddress 4 0 (stateT 3 [(4, 0x40006000)])) (stateT 3 [(4, 0x40006000)]) =
          .trap (.tlbr 0x40006000)) ∧
      (linkAddress 4 0 (start 0 [(4, 1)])).toNat % 4 ≠ 0 ∧
      (linkAddress 4 0 (start 0 [(4, 3)])).toNat % 4 ≠ 0 :=
  ⟨reaches rfl (by decide) (by decide), by decide, by decide, by decide⟩

theorem witness_StoreConditional :
    ((beforeTrap 0x8).llbit = true ∧
        Reaches .store 4 (linkAddress 4 0x3FFF (beforeTrap 0x8)) 0xFFFFFFFC (beforeTrap 0x8)) ∧
      ((start 0 []).llbit = false ∧ (linkAddress 4 0x3FFF (start 0 [])).toNat % 4 = 0) ∧
      (∃ s : State, s.llbit = true ∧ (linkAddress 4 0 s).toNat % 4 = 0 ∧
        translate .store (linkAddress 4 0 s) s = .trap (.pme 0x40003000)) ∧
      (linkAddress 4 0 (start 0 [(4, 1)])).toNat % 4 ≠ 0 :=
  ⟨⟨rfl, reaches rfl (by decide) (by decide)⟩, by decide,
    ⟨{ stateT 3 [(4, 0x40003000)] with llbit := true }, by decide, by decide, by decide⟩, by decide⟩

theorem witness_NoEffectInstructions :
    (stateT 0 []).csr.crmd.plv = 0#2 ∧ (stateT 1 []).csr.crmd.plv ≠ 0#2 := by decide

/-- The last word of the space; loads of its last byte, its upper half, and the word. -/
theorem witness_StoreThenLoad :
    ∃ s t : State, DirectMode s ∧ (0xFFFFFFFC : Word) = dataAddress 13 0xFFC s ∧
      (0xFFFFFFFC : Word).toNat % 4 = 0 ∧ Backed 4 0xFFFFFFFC s ∧ exec (.stW 12 13 0xFFC) s = .next t ∧
      dataAddress 13 0xFFF t = 0xFFFFFFFC + BitVec.ofNat 32 3 ∧
      dataAddress 13 0xFFE t = 0xFFFFFFFC + BitVec.ofNat 32 2 ∧
      dataAddress 13 0xFFC t = 0xFFFFFFFC + BitVec.ofNat 32 0 :=
  ⟨start 0 [(12, 0x11223344)],
    ((start 0 [(12, 0x11223344)]).storeBytes 0xFFFFFFFC (wordBytes 0x11223344)).advance, ⟨rfl, rfl⟩,
    by decide, by decide, backed_everywhere rfl _ _, rfl, by decide, by decide, by decide⟩

theorem witness_PrivilegedIpe :
    (stateT 1 []).csr.crmd.plv ≠ 0#2 ∧ (stateT 2 []).csr.crmd.plv ≠ 0#2 ∧
      (stateT 3 []).csr.crmd.plv ≠ 0#2 ∧ (0#5).toNat ≤ 6 ∧ (6#5).toNat ≤ 6 := by decide

theorem witness_CsrReadLayout :
    (stateT 0 []).csr.crmd.plv = 0#2 ∧ (stateT 3 []).csr.crmd.plv ≠ 0#2 := by decide

theorem witness_CsrStorageWrite :
    (0x0#14, 0x1FF#32) ∈ storageCsrs ∧ (0x181#14, 0xEE000039#32) ∈ storageCsrs ∧
      (stateT 0 []).csr.crmd.plv = 0#2 := by decide

theorem witness_CsrWithoutFields :
    (stateT 0 []).csr.crmd.plv = 0#2 ∧ 0x1B#14 ∉ writableCsrs ∧ 0x42#14 ∉ writableCsrs ∧
      0x3#14 ∉ definedCsrs ∧ 0x3FFF#14 ∉ definedCsrs := by decide

theorem witness_CsrActions : (stateT 0 []).csr.crmd.plv = 0#2 := by decide

/-- A state other than that after reset, in mapped mode with four entries. -/
theorem invariant_stateT : Invariant (stateT 0 []) :=
  ⟨by decide, by decide, by decide, by decide, by decide, by decide, by decide, by decide⟩

theorem witness_CsrTimerConfiguration :
    Invariant (stateT 0 []) ∧ (stateT 0 []).csr.crmd.plv = 0#2 ∧
      (Instr.csrwr 0 0x41 = .csrwr 0 0x41 ∧ 0 = (stateT 0 []).reg 0) ∧
      (Instr.csrxchg 0 2 0x41 = .csrxchg 0 2 0x41 ∧
        0 = maskedWrite (csrRead 0x41 (stateT 0 [])) ((stateT 0 []).reg 0) ((stateT 0 []).reg 2)
          0xFFFFFFFF) :=
  ⟨invariant_stateT, by decide, by decide, by decide⟩

/-- Four entries are numbered by two bits; so are three. -/
theorem witness_CsrTlbIndex :
    Invariant (stateT 0 []) ∧ (stateT 0 []).csr.crmd.plv = 0#2 ∧ IsCeilLog2 2 (stateT 0 []).tlb.length ∧
      IsCeilLog2 2 3 := by
  refine ⟨invariant_stateT, by decide, ⟨by decide, fun m h => ?_⟩, by decide, fun m h => ?_⟩
  · rcases m with _ | _ | m
    · exact absurd h (by decide)
    · exact absurd h (by decide)
    · omega
  · rcases m with _ | _ | m
    · exact absurd h (by decide)
    · exact absurd h (by decide)
    · omega

theorem witness_Idle :
    (stateT 0 []).csr.crmd.plv = 0#2 ∧ (stateT 3 []).csr.crmd.plv ≠ 0#2 := by decide

/-- State T with the first entry twice. -/
def doubledT : State := { stateT 0 [] with tlb := entriesT.take 1 ++ entriesT }

theorem several_doubledT : SeveralMatch doubledT 5 0x40002000 := by
  refine ⟨0, 1, _, _, by decide, rfl, rfl, ?_, ?_⟩ <;> unfold EntryMatches <;> decide

/-- One entry of state T matches. -/
theorem only_match {s : State} {i : Nat} {e : TlbEntry} {va : Word} (ht : s.tlb = entriesT)
    (he : entriesT[i]? = some e) (hm : EntryMatches e s.csr.asid va)
    (ho : ∀ j, j < 4 → ∀ f, entriesT[j]? = some f → EntryMatches f s.csr.asid va → j = i) :
    OnlyMatch s i e s.csr.asid va := by
  refine ⟨by rw [ht]; exact he, hm, fun j f hf => ho j ?_ f (by rwa [ht] at hf)⟩
  rw [ht] at hf
  exact (List.getElem?_eq_some_iff.1 hf).1

/-- The entries of state T that match four addresses, in its address space. -/
theorem only_matches (plv : BitVec 2) (regs : List (Reg × Word)) :
    OnlyMatch (stateT plv regs) 0 (entriesT[0]) 5 0x40002000 ∧
      OnlyMatch (stateT plv regs) 0 (entriesT[0]) 5 0x40003FFC ∧
      OnlyMatch (stateT plv regs) 1 (entriesT[1]) 5 0x40004000 ∧
      OnlyMatch (stateT plv regs) 1 (entriesT[1]) 5 0x40005FFC ∧
      OnlyMatch (stateT plv regs) 2 (entriesT[2]) 5 0x407FFFFF := by
  refine ⟨only_match rfl rfl ?_ ?_, only_match rfl rfl ?_ ?_, only_match rfl rfl ?_ ?_,
      only_match rfl rfl ?_ ?_, only_match rfl rfl ?_ ?_⟩ <;>
    show _ <;> simp only [show (stateT plv regs).csr.asid = 5 from rfl] <;> unfold EntryMatches <;> decide

theorem none_matches (plv : BitVec 2) (regs : List (Reg × Word)) (va : Word)
    (h : va = 0x40006000 ∨ va = 0x40008000) : NoneMatches (stateT plv regs).tlb 5 va := by
  show NoneMatches entriesT 5 va
  rcases h with rfl | rfl <;> unfold NoneMatches EntryMatches <;> decide

theorem witness_TlbSearch :
    (0x40006000 : Word).toNat = (0x20003#19).toNat * 2 ^ 13 ∧
      (0x40002000 : Word).toNat = (0x20001#19).toNat * 2 ^ 13 ∧ (stateT 0 []).csr.crmd.plv = 0#2 ∧
      NoneMatches (stateT 0 []).tlb (stateT 0 []).csr.asid 0x40006000 ∧
      OnlyMatch (stateT 0 []) 0 (entriesT[0]) (stateT 0 []).csr.asid 0x40002000 ∧
      doubledT.csr.crmd.plv = 0#2 ∧ SeveralMatch doubledT doubledT.csr.asid 0x40002000 :=
  ⟨by decide, by decide, by decide, none_matches 0 [] _ (.inl rfl), (only_matches 0 []).1, by decide,
    several_doubledT⟩

/-- An entry that exists; one that does not, with either way of the implementation. -/
theorem witness_TlbRead :
    (writesT false 12).csr.crmd.plv = 0#2 ∧ (writesT false 12).tlb[0]? = some (entriesT[0]) ∧
      (entriesT[0]).e = true ∧ State.reset.csr.crmd.plv = 0#2 ∧
      State.reset.tlb[State.reset.csr.tlbidx.index.toNat]? = some TlbEntry.empty ∧
      TlbEntry.empty.e = false ∧ State.reset.params.tlbrdInvalidClears = true ∧
      { State.reset.params with tlbrdInvalidClears := false }.tlbrdInvalidClears = false := by decide

theorem witness_TlbWrite :
    (writesT false 12).csr.crmd.plv = 0#2 ∧
      (writesT false 12).csr.tlbidx.index.toNat < (writesT false 12).tlb.length ∧
      (writesT false 12).csr.tlbidx.ps.toNat ∈ (writesT false 12).params.legalPs ∧
      (writesT true 21).csr.tlbidx.ps.toNat ∈ (writesT true 21).params.legalPs := by decide

theorem witness_TlbFill :
    (writesT false 21).csr.crmd.plv = 0#2 ∧ 1 ≤ (writesT false 21).tlb.length ∧
      (writesT false 21).csr.tlbidx.ps.toNat ∈ (writesT false 21).params.legalPs := by decide

/-- A valid entry with page size 13; an index that numbers no entry; an invalid entry. -/
theorem witness_TlbWriteStops :
    (writesT false 13).csr.crmd.plv = 0#2 ∧
      (writesT false 13).csr.tlbidx.index.toNat < (writesT false 13).tlb.length ∧
      IllegalPageSize (writesT false 13) ∧ 1 ≤ (writesT false 13).tlb.length ∧
      { writesT false 12 with tlb := [] }.tlb.length ≤ (writesT false 12).csr.tlbidx.index.toNat ∧
      (writesT true 13).csr.tlbidx.index.toNat < (writesT true 13).tlb.length ∧
      (writesT true 13).csr.crmd.plv = 0#2 ∧ 1 ≤ (writesT true 13).tlb.length ∧
      ¬ IllegalPageSize (writesT true 13) := by
  unfold IllegalPageSize
  decide

theorem witness_InvalidateTlb :
    6 < (7#5).toNat ∧ 6 < (31#5).toNat ∧ (0#5).toNat ≤ 6 ∧ (6#5).toNat ≤ 6 ∧
      (stateT 3 []).csr.crmd.plv ≠ 0#2 ∧ (stateT 0 []).csr.crmd.plv = 0#2 ∧
      (stateT 0 []).tlb[0]? = some (entriesT[0]) ∧ InvtlbClears 5 5 0x40003FFF (entriesT[0]) ∧
      ¬ InvtlbClears 5 5 0x40004000 (entriesT[0]) := by
  unfold InvtlbClears EntryMaps
  decide

theorem witness_Ertn :
    (stateT 0 []).csr.crmd.plv = 0#2 ∧ (stateT 3 []).csr.crmd.plv ≠ 0#2 := by decide

/-- A system call, and a refill from mapped mode. -/
theorem witness_TrapThenReturn :
    Enters 0xB 0 none none (beforeTrap 0xF) (trapEntry .sys (beforeTrap 0xF).pc (beforeTrap 0xF)) ∧
      Enters 0x3F 0 (some 0x40006000) (some 0x40006000) (stateT 3 [])
        (trapEntry (.tlbr 0x40006000) (stateT 3 []).pc (stateT 3 [])) ∧
      MappedMode (stateT 3 []) :=
  ⟨enters_trapEntry .sys _, enters_trapEntry (.tlbr 0x40006000) _, by unfold MappedMode; decide⟩

theorem witness_DirectModeAccess : DirectMode (start 0 []) := ⟨rfl, rfl⟩

/-- The ends of both windows of state T; DMW0 is PLV0's. -/
theorem witness_WindowAccess :
    MappedMode (stateT 3 []) ∧ InWindow (stateT 3 []).csr.dmw1 3 0x00000000 ∧
      InWindow (stateT 3 []).csr.dmw1 3 0x1FFFFFFF ∧ MappedMode (stateT 0 []) ∧
      ¬ InWindow (stateT 0 []).csr.dmw1 0 0xA0000000 ∧ InWindow (stateT 0 []).csr.dmw0 0 0xA0000000 ∧
      ¬ InWindow (stateT 0 []).csr.dmw1 0 0xBFFFFFFF ∧ InWindow (stateT 0 []).csr.dmw0 0 0xBFFFFFFF := by
  unfold MappedMode InWindow
  decide

/-- No window of state T maps these addresses at PLV3. -/
theorem no_window (regs : List (Reg × Word)) (va : Word)
    (h : va ∈ [0x40002000, 0x40003FFC, 0x40004000, 0x40005FFC, 0x407FFFFF, 0x40006000, 0x40008000,
      (0xA0000000 : Word)]) : NoWindow (stateT 3 regs) va := by
  show ¬ InWindow (Dmw.ofWord 0xA0000011) 3 va ∧ ¬ InWindow (Dmw.ofWord 0x00000019) 3 va
  fin_cases h <;> unfold InWindow <;> decide

theorem witness_PageTranslation :
    MappedMode (stateT 3 []) ∧ NoWindow (stateT 3 []) 0x407FFFFF ∧ MayUse (stateT 3 []) 0x407FFFFF ∧
      OnlyMatch (stateT 3 []) 2 (entriesT[2]) (stateT 3 []).csr.asid 0x407FFFFF ∧
      (selectedPage (entriesT[2]) 0x407FFFFF).v = true ∧
      (stateT 3 []).csr.crmd.plv.toNat ≤ (selectedPage (entriesT[2]) 0x407FFFFF).plv.toNat ∧
      (selectedPage (entriesT[2]) 0x407FFFFF).d = true :=
  ⟨by unfold MappedMode; decide, no_window [] _ (by decide), by unfold MayUse; decide,
    (only_matches 3 []).2.2.2.2, by decide, by decide, by decide⟩

/-- One access for each clause: ALE, ADEM, TLBR, PIL, PIS, PPI; and PME at PLV0. -/
theorem witness_DataTranslationTraps :
    (dataAccessOf (.ldW 12 4 0) (start 0 [(4, 2)]) = some (.load, 4, 2) ∧ (2 : Word).toNat % 4 ≠ 0) ∧
      (dataAccessOf (.stB 12 4 0) (stateT 3 [(4, 0xA0000000)]) = some (.store, 1, 0xA0000000) ∧
        MappedMode (stateT 3 [(4, 0xA0000000)]) ∧ NoWindow (stateT 3 [(4, 0xA0000000)]) 0xA0000000 ∧
        ¬ MayUse (stateT 3 [(4, 0xA0000000)]) 0xA0000000) ∧
      (dataAccessOf (.llW 12 4 0) (stateT 3 [(4, 0x40006000)]) = some (.load, 4, 0x40006000) ∧
        NoWindow (stateT 3 [(4, 0x40006000)]) 0x40006000 ∧
        MayUse (stateT 3 [(4, 0x40006000)]) 0x40006000 ∧
        NoneMatches (stateT 3 [(4, 0x40006000)]).tlb 5 0x40006000) ∧
      (dataAccessOf (.stH 12 4 0) (stateT 3 [(4, 0x40004000)]) = some (.store, 2, 0x40004000) ∧
        NoWindow (stateT 3 [(4, 0x40004000)]) 0x40004000 ∧
        OnlyMatch (stateT 3 [(4, 0x40004000)]) 1 (entriesT[1]) 5 0x40004000 ∧
        (selectedPage (entriesT[1]) 0x40004000).v = false) ∧
      (dataAccessOf (.ldW 12 4 0) (stateT 3 [(4, 0x40005FFC)]) = some (.load, 4, 0x40005FFC) ∧
        NoWindow (stateT 3 [(4, 0x40005FFC)]) 0x40005FFC ∧
        OnlyMatch (stateT 3 [(4, 0x40005FFC)]) 1 (entriesT[1]) 5 0x40005FFC ∧
        (selectedPage (entriesT[1]) 0x40005FFC).v = true ∧
        (selectedPage (entriesT[1]) 0x40005FFC).plv.toNat < (3#2).toNat) ∧
      (dataAccessOf (.stW 12 4 0) (stateT 3 [(4, 0x40003FFC)]) = some (.store, 4, 0x40003FFC) ∧
        NoWindow (stateT 3 [(4, 0x40003FFC)]) 0x40003FFC ∧
        OnlyMatch (stateT 3 [(4, 0x40003FFC)]) 0 (entriesT[0]) 5 0x40003FFC ∧
        (selectedPage (entriesT[0]) 0x40003FFC).v = true ∧
        (3#2).toNat ≤ (selectedPage (entriesT[0]) 0x40003FFC).plv.toNat ∧
        (selectedPage (entriesT[0]) 0x40003FFC).d = false) :=
  ⟨by decide, ⟨by decide, by unfold MappedMode; decide, no_window _ _ (by decide), by unfold MayUse; decide⟩,
    ⟨by decide, no_window _ _ (by decide), by unfold MayUse; decide, none_matches 3 _ _ (.inl rfl)⟩,
    ⟨by decide, no_window _ _ (by decide), (only_matches 3 _).2.2.1, by decide⟩,
    ⟨by decide, no_window _ _ (by decide), (only_matches 3 _).2.2.2.1, by decide, by decide⟩,
    ⟨by decide, no_window _ _ (by decide), (only_matches 3 _).2.1, by decide, by decide, by decide⟩⟩

/-- State T at PLV3 with another pc. -/
def fetchT (pc : Word) : State := (stateT 3 []).setPc pc

theorem witness_FetchTraps :
    Quiet (fetchT 0x1C000101) ∧ (fetchT 0x1C000101).pc.toNat % 4 ≠ 0 ∧
      (Quiet (fetchT 0xA0000000) ∧ (fetchT 0xA0000000).pc.toNat % 4 = 0 ∧
        MappedMode (fetchT 0xA0000000) ∧ NoWindow (fetchT 0xA0000000) 0xA0000000 ∧
        ¬ MayUse (fetchT 0xA0000000) 0xA0000000) ∧
      (NoWindow (fetchT 0x40008000) 0x40008000 ∧ MayUse (fetchT 0x40008000) 0x40008000 ∧
        NoneMatches (fetchT 0x40008000).tlb 5 0x40008000) ∧
      (NoWindow (fetchT 0x40004000) 0x40004000 ∧
        OnlyMatch (fetchT 0x40004000) 1 (entriesT[1]) 5 0x40004000 ∧
        (selectedPage (entriesT[1]) 0x40004000).v = false) ∧
      NoWindow (fetchT 0x40005FFC) 0x40005FFC ∧
        OnlyMatch (fetchT 0x40005FFC) 1 (entriesT[1]) 5 0x40005FFC ∧
        (selectedPage (entriesT[1]) 0x40005FFC).v = true ∧
        (selectedPage (entriesT[1]) 0x40005FFC).plv.toNat < (fetchT 0x40005FFC).csr.crmd.plv.toNat :=
  ⟨⟨rfl, rfl, .inl rfl⟩, by decide,
    ⟨⟨rfl, rfl, .inl rfl⟩, by decide, by unfold MappedMode; decide, no_window [] _ (by decide),
      by unfold MayUse; decide⟩,
    ⟨no_window [] _ (by decide), by unfold MayUse; decide, none_matches 3 [] _ (.inr rfl)⟩,
    ⟨no_window [] _ (by decide), (only_matches 3 []).2.2.1, by decide⟩, no_window [] _ (by decide),
    (only_matches 3 []).2.2.2.1, by decide, by decide⟩

/-- The state after reset over another physical map. -/
def onMap (m : List Region) : State :=
  { State.reset with params := { Params.suggested with physMap := m } }

/-- Three bytes of memory at address 0 and at the reset vector, and then what `m` says. -/
def threeBytesT (m : List Region) : State :=
  onMap ([{ base := 0, size := 3, kind := .ram }, { base := 0x1C000000, size := 3, kind := .ram }] ++ m)

/-- The same with devices at every other address. -/
def threeThenDeviceT : State := threeBytesT [{ base := 0, size := 2 ^ 32, kind := .device }]

/-- DA = PG in both ways; two entries; an absent first byte and a device's, an absent last byte and a
device's, for data and for a fetch. -/
theorem witness_TranslationStops :
    ((beforeTrap 0x18).csr.crmd.da = (beforeTrap 0x18).csr.crmd.pg ∧ Quiet (beforeTrap 0x18) ∧
        (beforeTrap 0x18).pc.toNat % 4 = 0) ∧
      (beforeTrap 0x0).csr.crmd.da = (beforeTrap 0x0).csr.crmd.pg ∧
      (MappedMode doubledT ∧ NoWindow doubledT 0x40002000 ∧ MayUse doubledT 0x40002000 ∧
        SeveralMatch doubledT doubledT.csr.asid 0x40002000) ∧
      (dataAccessOf (.ldW 12 0 0) (onMap []) = some (.load, 4, 0) ∧ Quiet (onMap []) ∧
        translate .load 0 (onMap []) = .done { pa := 0, mat := 0 } ∧
        translate .fetch 0x1C000000 (onMap []) = .done { pa := 0x1C000000, mat := 0 } ∧
        regionAt (onMap []).params 0 = none ∧ regionAt (onMap []).params 0x1C000000 = none) ∧
      regionAt (onMap [{ base := 0, size := 2 ^ 32, kind := .device }]).params 0x1C000000 =
        some .device ∧
      (dataAccessOf (.stW 12 0 0) (threeBytesT []) = some (.store, 4, 0) ∧ Quiet (threeBytesT []) ∧
        translate .store 0 (threeBytesT []) = .done { pa := 0, mat := 0 } ∧
        translate .fetch 0x1C000000 (threeBytesT []) = .done { pa := 0x1C000000, mat := 0 } ∧
        Backed 3 0 (threeBytesT []) ∧ Backed 3 0x1C000000 (threeBytesT []) ∧
        regionAt (threeBytesT []).params 3 = none ∧
        regionAt (threeBytesT []).params 0x1C000003 = none) ∧
      (Backed 3 0 threeThenDeviceT ∧ Backed 3 0x1C000000 threeThenDeviceT ∧
        regionAt threeThenDeviceT.params 3 = some .device ∧
        regionAt threeThenDeviceT.params 0x1C000003 = some .device) := by
  refine ⟨⟨by decide, ⟨rfl, rfl, .inl rfl⟩, by decide⟩, by decide, ⟨?_, ?_, ?_, several_doubledT⟩,
    ⟨by decide, ⟨rfl, rfl, .inl rfl⟩, by decide, by decide, by decide, by decide⟩, by decide,
    ⟨by decide, ⟨rfl, rfl, .inl rfl⟩, by decide, by decide, ?_, ?_, by decide, by decide⟩, ?_, ?_, by decide, by decide⟩
  rotate_left 3
  · unfold Backed; decide
  · unfold Backed; decide
  · unfold Backed; decide
  · unfold Backed; decide
  · unfold MappedMode; decide
  · unfold NoWindow InWindow; decide
  · unfold MayUse; decide

/-- A program of one instruction, launched bare, runs to the address after it (R475). -/
theorem test_launch_runs_to_end :
    ∃ s t, BareLaunch 0x1C000000 s ∧ ProgramAt 0x1C000000 [0x001039AC] s ∧
      RunsTo 0x1C000004 s t := by
  obtain ⟨t, ht, hp⟩ := afterStep_some
    (show afterStep (State.reset.withFetchWord 32 0x001039AC) (·.pc) = some 0x1C000004 by decide)
  refine ⟨State.reset.withFetchWord 32 0x001039AC, t,
    ⟨State.reset.withFetchWord 32 0x001039AC, by decide⟩, ⟨by decide, fun k w h => ?_⟩,
    .next (by unfold Ended; decide) ht (.ended hp)⟩
  match k, h with
  | 0, h => exact Option.some.inj h ▸ by decide

/-- No program stands at an address that is not aligned (R475). -/
theorem test_program_is_aligned (s : State) : ¬ ProgramAt 0x1C000002 [] s :=
  fun h => absurd h.aligned (by decide)

/-- A pending, enabled source with CRMD.IE = 0, and a core that waits and is woken by it. -/
def wakesT : State :=
  { State.reset.withFetchWord 32 0x001039AC with
    idleWait := true
    inputs := [{ ticks := 1, hwi := 1, ipi := false, reset := false }]
    csr := { State.reset.csr with ecfg := Ecfg.ofWord 0x4 } }

theorem witness_StepRunsDecoded :
    (Quiet (State.reset.withFetchWord 32 0x001039AC) ∧
        Fetches (State.reset.withFetchWord 32 0x001039AC) 0x001039AC ∧
        decodeWord 0x001039AC = .instr (.addW 12 13 14)) ∧
      ∃ e, resetAsserted wakesT = false ∧ e = { environment wakesT with idleWait := false } ∧
        ((environment wakesT).idleWait = true → pendingEnabled e ≠ 0#13) ∧ e.csr.crmd.ie = false ∧
        Fetches e 0x001039AC :=
  ⟨⟨⟨rfl, rfl, .inl rfl⟩,
      fetches rfl (by decide) (pa := 0x1C000000) (by decide) (by decide), by decide⟩,
    { environment wakesT with idleWait := false }, by decide, rfl, by decide, by decide,
    fetches (by decide) (by decide) (pa := 0x1C000000) (by decide) (by decide)⟩

/-- A core that waits with nothing enabled; and a hardware interrupt that is. -/
theorem witness_InterruptAndIdle :
    (resetAsserted { State.reset with idleWait := true } = false ∧
        (environment { State.reset with idleWait := true }).idleWait = true ∧
        csrRead 0x5 (environment { State.reset with idleWait := true }) &&&
          csrRead 0x4 (environment { State.reset with idleWait := true }) = 0) ∧
      ∃ s : State, resetAsserted s = false ∧ (environment s).csr.crmd.ie = true ∧
        csrRead 0x5 (environment s) &&& csrRead 0x4 (environment s) ≠ 0 :=
  ⟨by decide,
    { wakesT with csr := { wakesT.csr with crmd := Crmd.ofWord 0xC } }, by decide, by decide, by decide⟩

/-- A timer just loaded, with the shortest period and with another; and one that has stopped. -/
def timed (en : Bool) (periodic : Bool) (initVal : BitVec 30) : State :=
  { State.reset with
    timerRunning := en
    timerCnt := initVal ++ 0#2
    csr := { State.reset.csr with tcfg := { en := en, periodic := periodic, initVal := initVal } } }

theorem witness_TimerCountdown :
    ((timed true true 0).timerRunning = true ∧ (timed true true 0).timerCnt.toNat = 4 * 0 ∧
        (timed true true 0).csr.tcfg.periodic = true) ∧
      ((timed true false 3).timerRunning = true ∧ (timed true false 3).timerCnt.toNat = 4 * 3 ∧
        (timed true false 3).csr.tcfg.periodic = false) ∧
      (timed false false 0).timerRunning = false := by decide

/-- A tick that wraps the counter; and no input left. -/
theorem witness_CounterAdvances :
    (∃ s t : State, step s = .next t ∧ resetAsserted s = false ∧
        s.inputs = [{ ticks := 1, hwi := 0, ipi := true, reset := false }] ∧
        s.stableCounter.toNat = 2 ^ 64 - 1) ∧
      ∃ t, step State.reset = .next t ∧ resetAsserted State.reset = false ∧ State.reset.inputs = [] := by
  refine ⟨⟨{ State.reset with
      stableCounter := BitVec.allOnes 64
      inputs := [{ ticks := 1, hwi := 0, ipi := true, reset := false }] }, ?_⟩, ?_⟩
  · obtain ⟨t, ht, -⟩ := afterStep_some (v := ()) (f := fun _ => ())
      (s := { State.reset with
        stableCounter := BitVec.allOnes 64
        inputs := [{ ticks := 1, hwi := 0, ipi := true, reset := false }] }) (by decide)
    exact ⟨t, ht, rfl, rfl, by decide⟩
  · obtain ⟨t, ht, -⟩ := afterStep_some (s := State.reset) (v := ()) (f := fun _ => ()) (by decide)
    exact ⟨t, ht, rfl, rfl⟩

theorem witness_OnlyStoresWriteMemory :
    ∃ s t : State, ∃ c, exec (.stB 12 13 0xFFF) s = .next t ∧ t.byteAt c ≠ s.byteAt c := by
  obtain ⟨t, ht, hv⟩ := after_some (i := .stB 12 13 0xFFF) (s := start 0 [(12, 0x78)])
    (f := fun t => t.byteAt 0xFFFFFFFF) (v := 0x78) (by decide)
  exact ⟨_, t, 0xFFFFFFFF, ht, by rw [hv]; decide⟩

/-- The word 0x06498000 is INVTLB 0. -/
theorem witness_OnlyTlbInstructionsWriteTlb :
    ∃ s t : State, step s = .next t ∧ resetAsserted s = false ∧ t.tlb ≠ s.tlb := by
  obtain ⟨t, ht, hv⟩ := afterStep_some (s := (stateT 0 []).withFetchWord 32 0x06498000)
    (f := fun t => t.tlb.map fun e => e.e) (v := [false, false, false, false]) (by decide)
  refine ⟨_, t, ht, by decide, fun h => ?_⟩
  rw [h] at hv
  exact absurd hv (by decide)

/-- LL.W sets LLbit; ERTN clears it; so does reset. -/
theorem witness_LLbitChanges :
    (∃ s t : State, step s = .next t ∧ t.llbit = true ∧ s.llbit = false) ∧
      (∃ s t : State, step s = .next t ∧ t.llbit = false ∧ s.llbit = true ∧ resetAsserted s = false) ∧
      ∃ s t : State, step s = .next t ∧ t.llbit = false ∧ s.llbit = true ∧ resetAsserted s = true := by
  obtain ⟨t, ht, hv⟩ := afterStep_some (s := State.reset.withFetchWord 32 0x2000008D)
    (f := fun t => t.llbit) (v := true) (by decide)
  obtain ⟨u, hu, hw⟩ := afterStep_some (s := (beforeTrap 0x8).withFetchWord 32 0x06483800)
    (f := fun t => t.llbit) (v := false) (by decide)
  obtain ⟨v, hv', hx⟩ := afterStep_some
    (s := { beforeTrap 0x8 with inputs := [{ ticks := 0, hwi := 0, ipi := false, reset := true }] })
    (f := fun t => t.llbit) (v := false) (by decide)
  exact ⟨⟨_, t, ht, hv, by decide⟩, ⟨_, u, hu, hw, by decide, by decide⟩,
    ⟨_, v, hv', hx, by decide, by decide⟩⟩

/-- At PLV3, an addition; and at PLV1 a SYSCALL. -/
theorem witness_UserModeConfined :
    (∃ s t : State, step s = .next t ∧ resetAsserted s = false ∧ s.csr.crmd.plv ≠ 0#2 ∧
        t.csr.crmd.plv = 3#2) ∧
      ∃ s t : State, step s = .next t ∧ resetAsserted s = false ∧ s.csr.crmd.plv ≠ 0#2 ∧
        t.csr.crmd.plv = 0#2 := by
  obtain ⟨t, ht, hv⟩ := afterStep_some (s := (stateT 3 []).withFetchWord 32 0x001039AC)
    (f := fun t => t.csr.crmd.plv) (v := 3) (by decide)
  obtain ⟨u, hu, hw⟩ := afterStep_some (s := (stateT 1 []).withFetchWord 32 0x002B0011)
    (f := fun t => t.csr.crmd.plv) (v := 0) (by decide)
  exact ⟨⟨_, t, ht, by decide, by decide, hv⟩, ⟨_, u, hu, by decide, by decide, hw⟩⟩

theorem witness_DirectModeNeverStops :
    DirectMode (start 0 []) ∧ MemoryBacked (fun _ => True) (start 0 []) :=
  ⟨⟨rfl, rfl⟩, fun pa _ => ram_everywhere pa⟩

theorem witness_InvariantKept : ∃ t, Invariant (stateT 0 []) ∧ step (stateT 0 []) = .next t := by
  obtain ⟨t, ht, -⟩ := afterStep_some (s := stateT 0 []) (v := ()) (f := fun _ => ()) (by decide)
  exact ⟨t, invariant_stateT, ht⟩

theorem witness_ResetValuesHold :
    resetAsserted
      { stateT 3 [] with inputs := [{ ticks := 5, hwi := 1, ipi := true, reset := true }] } = true := by
  decide

/-- A store of the word of ADD.W to the place after it; the last word of the space is such a place. -/
theorem witness_StoreThenFetch :
    ∃ s : State, Quiet s ∧ DirectMode s ∧ s.pc.toNat % 4 = 0 ∧ dataAddress 13 0xFFC s = s.pc + 4#32 ∧
      Backed 4 (s.pc + 4#32) s ∧ decodeWord (s.reg 12) = .instr (.addW 12 13 14) :=
  ⟨start 0xFFFFFFF8 [(12, 0x001039AC)], ⟨rfl, rfl, .inl rfl⟩, ⟨rfl, rfl⟩, by decide, by decide,
    backed_everywhere rfl _ _, by decide⟩

end Sys2Proof.Tests
end

section
/-! PROOFS. The CSR numbers that have no writable field, and those that are not defined at all
(`10_state.md` R57, R58, `45_privileged.md` R333 f and h). -/

namespace Sys2Proof.Machine

/-! The numbers. -/

/-- The statements' list of CSR numbers is the one the model looks a number up in. -/
theorem definedCsrs_eq_map_csrNumber : definedCsrs = csrNames.map csrNumber := rfl

theorem csrNamed_eq_none_iff {n : BitVec 14} : csrNamed n = none ↔ n ∉ definedCsrs := by
  simp [csrNamed, definedCsrs_eq_map_csrNumber]

theorem csrNumber_of_csrNamed {n : BitVec 14} {c : CsrName} (h : csrNamed n = some c) :
    csrNumber c = n := by
  simpa using List.find?_some h

theorem writableCsrs_subset_definedCsrs : writableCsrs ⊆ definedCsrs := by decide

/-! Reading and writing them. -/

theorem csrRead_undefined {n : BitVec 14} (h : n ∉ definedCsrs) (s : State) : csrRead n s = 0#32 := by
  rw [csrRead, csrNamed_eq_none_iff.2 h]

/-- The registers outside `writableCsrs` are the five that have no writable field: a store to one of
them leaves the state as it is. -/
theorem csrStore_not_writable {c : CsrName} (h : csrNumber c ∉ writableCsrs) (w ones : Word)
    (s : State) : csrStore c w ones s = s := by
  cases c with
  | euen | pgd | cpuid | tval | ctag => rfl
  | _ => exact absurd (by decide) h

theorem csrWrite_not_writable {n : BitVec 14} (h : n ∉ writableCsrs) (value mask : Word) (s : State) :
    csrWrite n value mask s = s := by
  cases hc : csrNamed n with
  | none => rw [csrWrite, hc]
  | some c =>
    obtain rfl := csrNumber_of_csrNamed hc
    rw [csrWrite_csrNumber, csrStore_not_writable h]

/-! The three CSR instructions at PLV0. -/

theorem exec_csrrd_kernel {s : State} (hp : s.csr.crmd.plv = 0#2) (rd : Reg) (n : BitVec 14) :
    exec (.csrrd rd n) s = .next (writeNext rd (csrRead n s) s) := privileged_kernel hp _

theorem exec_csrwr_kernel {s : State} (hp : s.csr.crmd.plv = 0#2) (rd : Reg) (n : BitVec 14) :
    exec (.csrwr rd n) s =
      .next (writeNext rd (csrRead n s) (csrWrite n (s.reg rd) (BitVec.allOnes 32) s)) :=
  privileged_kernel hp _

theorem exec_csrxchg_kernel {s : State} (hp : s.csr.crmd.plv = 0#2) (rd rj : Reg) (n : BitVec 14) :
    exec (.csrxchg rd rj n) s =
      .next (writeNext rd (csrRead n s) (csrWrite n (s.reg rd) (s.reg rj) s)) :=
  privileged_kernel hp _

/-- An instruction that ends with `writeNext` computes that register. -/
theorem computes_of_exec_writeNext {i : Instr} {rd : Reg} {v : Word} {s : State} {P : Word → Prop}
    (h : exec i s = .next (writeNext rd v s)) (hv : P v) : Computes i rd s P :=
  ⟨_, v, h, computesReg_writeNext rd v s, hv⟩

theorem exec_csrwr_not_writable {s : State} (hp : s.csr.crmd.plv = 0#2) {n : BitVec 14}
    (h : n ∉ writableCsrs) (rd : Reg) :
    exec (.csrwr rd n) s = .next (writeNext rd (csrRead n s) s) := by
  rw [exec_csrwr_kernel hp, csrWrite_not_writable h]

theorem exec_csrxchg_not_writable {s : State} (hp : s.csr.crmd.plv = 0#2) {n : BitVec 14}
    (h : n ∉ writableCsrs) (rd rj : Reg) :
    exec (.csrxchg rd rj n) s = .next (writeNext rd (csrRead n s) s) := by
  rw [exec_csrxchg_kernel hp, csrWrite_not_writable h]

/-- Settles O29: a CSR without a writable field keeps the whole state under a write, and an undefined
number is one more such case, whose value is 0. -/
theorem csrWithoutFields : Obligations.CsrWithoutFields := by
  intro s rd rj csr hp
  refine ⟨fun hw => ?_, fun hd => ?_⟩
  · exact ⟨computes_of_exec_writeNext (exec_csrwr_not_writable hp hw rd) rfl,
      computes_of_exec_writeNext (exec_csrxchg_not_writable hp hw rd rj) rfl⟩
  · have hw : csr ∉ writableCsrs := fun h => hd (writableCsrs_subset_definedCsrs h)
    have h0 : csrRead csr s = 0#32 := csrRead_undefined hd s
    exact ⟨computes_of_exec_writeNext (exec_csrrd_kernel hp rd csr) h0,
      computes_of_exec_writeNext (exec_csrwr_not_writable hp hw rd) h0,
      computes_of_exec_writeNext (exec_csrxchg_not_writable hp hw rd rj) h0⟩

end Sys2Proof.Machine
end

section
/-! PROOFS. Address translation in direct mode (`20_memory.md` R101). -/

namespace Sys2Proof.Machine

/-- Settles O42: `translate_direct` leaves `directTranslate`, which consults the address and the two
type fields of CRMD only. -/
theorem directModeAccess : Obligations.DirectModeAccess := by
  intro s kind va ⟨hda, hpg⟩
  exact ⟨directTranslate kind va s, translate_direct hda hpg, rfl, rfl⟩

end Sys2Proof.Machine
end

section
/-! PROOFS. The integer instructions (`40_integer.md` R201 to R224): what each operand form is as a
number or bit by bit, then the statements, whose encodings are the rows of `opcodeRow`. -/

namespace Sys2Proof.Machine
open Laws

/-! Operands. -/

theorem toInt_sext32 {w : Nat} (hw : w ≤ 32) (v : BitVec w) : (sext32 v).toInt = v.toInt :=
  BitVec.toInt_signExtend_of_le hw

/-- A sign-extended operand read as unsigned is its signed value modulo 2^32. -/
theorem toNat_sext32 {w : Nat} (hw : w ≤ 32) (v : BitVec w) :
    ((sext32 v).toNat : Int) = v.toInt % 2 ^ 32 := by
  rw [← toInt_sext32 hw, BitVec.toInt_eq_toNat_cond]
  omega

theorem getLsbD_zext32 {w : Nat} {k : Nat} (hk : k < 32) (v : BitVec w) :
    (zext32 v).getLsbD k = (decide (k < w) && v.getLsbD k) := by
  by_cases hw : k < w
  · simp [zext32, hk, hw]
  · simp [zext32, hw, BitVec.getLsbD_of_ge v k (by omega)]

theorem getLsbD_not_word {k : Nat} (hk : k < 32) (v : Word) : (~~~v).getLsbD k = !v.getLsbD k := by
  rw [BitVec.getLsbD_not, decide_eq_true hk, Bool.true_and]

theorem shiftCount_eq_mod (v : Word) : shiftCount v = v.toNat % 32 := by
  simp [shiftCount, BitVec.extractLsb'_toNat]

theorem toNat_upperImmediate (si20 : BitVec 20) :
    (upperImmediate si20).toNat = si20.toNat * 2 ^ 12 := by
  rw [upperImmediate, toNat_append_zeros, Nat.mul_comm]

/-! Results. -/

theorem toNat_add_sext32 {w : Nat} (hw : w ≤ 32) (a : Word) (v : BitVec w) :
    ((a + sext32 v).toNat : Int) = ((a.toNat : Int) + v.toInt) % 2 ^ 32 := by
  have hv : ((sext32 v).toNat : Int) = v.toInt % 2 ^ 32 := toNat_sext32 hw v
  rw [BitVec.toNat_add]
  omega

theorem toNat_sub_word (a b : Word) : (a - b).toNat = (a.toNat + 2 ^ 32 - b.toNat) % 2 ^ 32 := by
  rw [BitVec.toNat_sub]
  omega

theorem toNat_add_upperImmediate (a : Word) (si20 : BitVec 20) :
    (a + upperImmediate si20).toNat = (a.toNat + si20.toNat * 2 ^ 12) % 2 ^ 32 := by
  rw [BitVec.toNat_add, toNat_upperImmediate]

theorem toNat_truthWord_decide (p : Prop) [Decidable p] :
    (truthWord (decide p)).toNat = if p then 1 else 0 := by
  by_cases h : p <;> simp [truthWord, h]

/-- SLTUI's comparison, on the exact values of both operands. -/
theorem toNat_lt_sext32_iff {w : Nat} (hw : w ≤ 32) (a : Word) (v : BitVec w) :
    a.toNat < (sext32 v).toNat ↔ (a.toNat : Int) < v.toInt % 2 ^ 32 := by
  rw [← toNat_sext32 hw, Int.ofNat_lt]

theorem toNat_shiftLeft_word (a : Word) (n : Nat) : (a <<< n).toNat = a.toNat * 2 ^ n % 2 ^ 32 := by
  rw [BitVec.toNat_shiftLeft, Nat.shiftLeft_eq]

theorem toNat_ushiftRight_word (a : Word) (n : Nat) : (a >>> n).toNat = a.toNat / 2 ^ n := by
  rw [BitVec.toNat_ushiftRight, Nat.shiftRight_eq_div_pow]

/-- `Int` division by a positive number rounds down, as the arithmetic shift does. -/
theorem toInt_sshiftRight_word (a : Word) (n : Nat) :
    (a.sshiftRight n).toInt = a.toInt / 2 ^ n := by
  rw [BitVec.toInt_sshiftRight, Int.shiftRight_eq_div_pow, Nat.cast_pow, Nat.cast_ofNat]

/-! The statements. Each `exec` of these instructions is `writeNext` by definition, so an
instruction is settled by its row of the opcode map and one fact about the value that it writes. -/

/-- Settles O6: the comparison's truth value as a number. SLTI and SLTUI read the same extended
immediate, the one as signed and the other as unsigned. -/
theorem setLess : Obligations.SetLess := by
  intro s rd rj rk si12
  have hslti : (truthWord (lessSigned (s.reg rj) (sext32 si12))).toNat =
      if (s.reg rj).toInt < si12.toInt then 1 else 0 := by
    simp only [lessSigned, toNat_truthWord_decide, toInt_sext32 (show 12 ≤ 32 by decide)]
  have hsltui : (truthWord (lessUnsigned (s.reg rj) (sext32 si12))).toNat =
      if ((s.reg rj).toNat : Int) < si12.toInt % 2 ^ 32 then 1 else 0 := by
    simp only [lessUnsigned, toNat_truthWord_decide, toNat_lt_sext32_iff (show 12 ≤ 32 by decide)]
  exact ⟨⟨EncodingMatchesTable.slt rd rj rk rfl,
      computes_of_exec_writeNext rfl (toNat_truthWord_decide _)⟩,
    ⟨EncodingMatchesTable.sltu rd rj rk rfl,
      computes_of_exec_writeNext rfl (toNat_truthWord_decide _)⟩,
    ⟨EncodingMatchesTable.slti rd rj si12 rfl, computes_of_exec_writeNext rfl hslti⟩,
    ⟨EncodingMatchesTable.sltui rd rj si12 rfl, computes_of_exec_writeNext rfl hsltui⟩⟩

/-- Settles O9: the count is `shiftCount_eq_mod`, then each shift is exact arithmetic. -/
theorem shiftByRegister : Obligations.ShiftByRegister := by
  intro s rd rj rk
  rw [← shiftCount_eq_mod]
  exact ⟨⟨EncodingMatchesTable.sllW rd rj rk rfl,
      computes_of_exec_writeNext rfl (toNat_shiftLeft_word _ _)⟩,
    ⟨EncodingMatchesTable.srlW rd rj rk rfl,
      computes_of_exec_writeNext rfl (toNat_ushiftRight_word _ _)⟩,
    ⟨EncodingMatchesTable.sraW rd rj rk rfl,
      computes_of_exec_writeNext rfl (toInt_sshiftRight_word _ _)⟩⟩

/-- Settles O10: the shifts of O9 with the count ui5 itself. -/
theorem shiftByImmediate : Obligations.ShiftByImmediate := by
  intro s rd rj ui5
  exact ⟨⟨EncodingMatchesTable.slliW rd rj ui5 rfl,
      computes_of_exec_writeNext rfl (toNat_shiftLeft_word _ _)⟩,
    ⟨EncodingMatchesTable.srliW rd rj ui5 rfl,
      computes_of_exec_writeNext rfl (toNat_ushiftRight_word _ _)⟩,
    ⟨EncodingMatchesTable.sraiW rd rj ui5 rfl,
      computes_of_exec_writeNext rfl (toInt_sshiftRight_word _ _)⟩⟩

/-- Settles O5: sums and differences of words are those of their numbers modulo 2^32. -/
theorem addSubtract : Obligations.AddSubtract := by
  intro s rd rj rk si12
  exact ⟨⟨EncodingMatchesTable.addW rd rj rk rfl,
      computes_of_exec_writeNext rfl (BitVec.toNat_add _ _)⟩,
    ⟨EncodingMatchesTable.subW rd rj rk rfl, computes_of_exec_writeNext rfl (toNat_sub_word _ _)⟩,
    ⟨EncodingMatchesTable.addiW rd rj si12 rfl,
      computes_of_exec_writeNext rfl (toNat_add_sext32 (by decide) _ _)⟩⟩

/-- Settles O7, with the bits of each operation; a complement has its bit only below the width. -/
theorem logicRegister : Obligations.LogicRegister := by
  intro s rd rj rk
  refine ⟨⟨EncodingMatchesTable.and rd rj rk rfl, ?and⟩,
    ⟨EncodingMatchesTable.or rd rj rk rfl, ?or⟩,
    ⟨EncodingMatchesTable.nor rd rj rk rfl, ?nor⟩, ⟨EncodingMatchesTable.xor rd rj rk rfl, ?xor⟩,
    ⟨EncodingMatchesTable.andn rd rj rk rfl, ?andn⟩, ⟨EncodingMatchesTable.orn rd rj rk rfl, ?orn⟩⟩
  case and => exact computes_of_exec_writeNext rfl fun _ _ => BitVec.getLsbD_and
  case or => exact computes_of_exec_writeNext rfl fun _ _ => BitVec.getLsbD_or
  case nor =>
    exact computes_of_exec_writeNext rfl fun _ hk => by rw [getLsbD_not_word hk, BitVec.getLsbD_or]
  case xor => exact computes_of_exec_writeNext rfl fun _ _ => BitVec.getLsbD_xor
  case andn =>
    exact computes_of_exec_writeNext rfl fun _ hk => by rw [BitVec.getLsbD_and, getLsbD_not_word hk]
  case orn =>
    exact computes_of_exec_writeNext rfl fun _ hk => by rw [BitVec.getLsbD_or, getLsbD_not_word hk]

/-- Settles O8: `getLsbD_zext32` gives the immediate's bits, 0 from its width on. -/
theorem logicImmediate : Obligations.LogicImmediate := by
  intro s rd rj ui12
  refine ⟨⟨EncodingMatchesTable.andi rd rj ui12 rfl, ?andi⟩,
    ⟨EncodingMatchesTable.ori rd rj ui12 rfl, ?ori⟩,
    ⟨EncodingMatchesTable.xori rd rj ui12 rfl, ?xori⟩⟩
  case andi =>
    exact computes_of_exec_writeNext rfl fun _ hk => by rw [BitVec.getLsbD_and, getLsbD_zext32 hk]
  case ori =>
    exact computes_of_exec_writeNext rfl fun _ hk => by rw [BitVec.getLsbD_or, getLsbD_zext32 hk]
  case xori =>
    exact computes_of_exec_writeNext rfl fun _ hk => by rw [BitVec.getLsbD_xor, getLsbD_zext32 hk]

/-- Settles O11: both use the one upper immediate, PCADDU12I added to its own address. The namespace
keeps the name apart from that of the operand. -/
theorem Integer.upperImmediate : Obligations.UpperImmediate := by
  intro s rd si20
  exact ⟨⟨EncodingMatchesTable.lu12iW rd si20 rfl,
      computes_of_exec_writeNext rfl (toNat_upperImmediate si20)⟩,
    ⟨EncodingMatchesTable.pcaddu12i rd si20 rfl,
      computes_of_exec_writeNext rfl (toNat_add_upperImmediate s.pc si20)⟩⟩

end Sys2Proof.Machine
end

section
/-! PROOFS. Multiplication (`41_muldiv.md` R241 to R243): the 64-bit products are exact, so each
instruction writes the low or the high word of the exact product. -/

namespace Sys2Proof.Machine
open Laws

/-! The products lose nothing. -/

/-- 64 bits hold every product of two signed words, that of -2^31 with itself included. -/
theorem toInt_productSigned (a b : Word) : (productSigned a b).toInt = a.toInt * b.toInt := by
  have hlow : -(2 ^ 62) ≤ a.toInt * b.toInt := BitVec.le_toInt_mul_toInt
  have hhigh : a.toInt * b.toInt ≤ 2 ^ 62 := BitVec.toInt_mul_toInt_le
  exact BitVec.toInt_ofInt_eq_self (by decide) (by omega) (by omega)

theorem toNat_productUnsigned (a b : Word) : (productUnsigned a b).toNat = a.toNat * b.toNat :=
  (BitVec.toNat_ofNat _ _).trans (Nat.mod_eq_of_lt BitVec.toNat_mul_toNat_lt)

/-! The two words of a double word. -/

theorem toNat_lowWord (p : BitVec 64) : ((p.extractLsb' 0 32).toNat : Int) = p.toInt % 2 ^ 32 := by
  rw [BitVec.extractLsb'_toNat, Nat.shiftRight_zero, BitVec.toInt_eq_toNat_cond]
  omega

theorem toNat_highWord (p : BitVec 64) : (p.extractLsb' 32 32).toNat = p.toNat / 2 ^ 32 := by
  rw [BitVec.extractLsb'_toNat, Nat.shiftRight_eq_div_pow]
  omega

/-- The high word has the sign bit of the double word, and `Int` division rounds down. -/
theorem toInt_highWord (p : BitVec 64) : (p.extractLsb' 32 32).toInt = p.toInt / 2 ^ 32 := by
  rw [BitVec.toInt_eq_toNat_cond, BitVec.toInt_eq_toNat_cond, toNat_highWord]
  omega

/-- Settles O12: the word that each instruction writes, read off the exact product. -/
theorem multiply : Obligations.Multiply := by
  intro s rd rj rk
  refine ⟨⟨EncodingMatchesTable.mulW rd rj rk rfl, ?mul⟩,
    ⟨EncodingMatchesTable.mulhW rd rj rk rfl, ?mulh⟩,
    ⟨EncodingMatchesTable.mulhWu rd rj rk rfl, ?mulhu⟩⟩
  case mul =>
    exact computes_of_exec_writeNext rfl (by rw [toNat_lowWord, toInt_productSigned])
  case mulh =>
    exact computes_of_exec_writeNext rfl (by rw [toInt_highWord, toInt_productSigned])
  case mulhu =>
    exact computes_of_exec_writeNext rfl (by rw [toNat_highWord, toNat_productUnsigned])

end Sys2Proof.Machine
end

section
/-! PROOFS. Branches and jumps (`42_branch_jump.md` R261 to R269): the places of the operands in the
words of the formats 2RI16 and I26, the targets as exact word offsets, and what setting the pc
leaves. -/

namespace Sys2Proof.Machine
open Laws

/-! The places of the operands. -/

theorem fieldRj_encode2RI16 (op : BitVec 6) (imm : BitVec 16) (rj rd : Reg) :
    fieldRj (encode2RI16 op imm rj rd) = rj :=
  (BitVec.extractLsb'_append_eq_of_le (by decide)).trans BitVec.extractLsb'_append_eq_right

theorem fieldRd_encode2RI16 (op : BitVec 6) (imm : BitVec 16) (rj rd : Reg) :
    fieldRd (encode2RI16 op imm rj rd) = rd :=
  BitVec.extractLsb'_append_eq_right

/-- The word holds the two parts of the offset in the other order, and the field puts them back. -/
theorem fieldI26_encodeI26 (op : BitVec 6) (imm : BitVec 26) : fieldI26 (encodeI26 op imm) = imm := by
  have hhigh : (encodeI26 op imm).extractLsb' 0 10 = imm.extractLsb' 16 10 :=
    BitVec.extractLsb'_append_eq_right
  have hlow : (encodeI26 op imm).extractLsb' 10 16 = imm.extractLsb' 0 16 :=
    (BitVec.extractLsb'_append_eq_of_le (by decide)).trans BitVec.extractLsb'_append_eq_right
  rw [fieldI26, hhigh, hlow]
  exact BitVec.extractLsb'_append_extractLsb'

/-! The targets. -/

/-- Two zero bits below a signed offset multiply it by 4, and the extension keeps the value. -/
theorem add_byteOffset {w : Nat} (base : Word) (offs : BitVec w) :
    base + byteOffset offs = wordsFrom base offs :=
  congrArg (fun d => base + BitVec.ofInt 32 d) BitVec.toInt_append_zero

theorem branchTarget_eq_wordsFrom {w : Nat} (offs : BitVec w) (s : State) :
    branchTarget offs s = wordsFrom s.pc offs := add_byteOffset s.pc offs

/-! What a transfer leaves. -/

theorem sameSystem_setPc (s : State) (a : Word) : SameSystem s (s.setPc a) :=
  ⟨rfl, rfl, ⟨rfl, rfl, rfl, rfl, rfl, rfl, rfl, rfl⟩⟩

theorem onlyPc_setPc (s : State) (a : Word) : OnlyPc s (s.setPc a) :=
  ⟨fun _ => rfl, fun _ => rfl, rfl, rfl, sameSystem_setPc s a⟩

theorem transfers_of_exec_setPc {i : Instr} {s : State} {a target : Word}
    (h : exec i s = .next (s.setPc a)) (ha : a = target) : Transfers i s target :=
  ⟨_, h, onlyPc_setPc s a, ha⟩

/-- An instruction that writes the address after it to a register and then sets the pc. -/
theorem linksAndJumps_of_exec {i : Instr} {rd : Reg} {s : State} {a target : Word}
    (h : exec i s = .next ((s.setReg rd (s.pc + 4#32)).setPc a)) (ha : a = target) :
    LinksAndJumps i rd s target :=
  ⟨_, h, fun r => reg_setReg s rd r _, ha, fun _ => rfl, rfl, rfl,
    rfl, rfl, ⟨rfl, rfl, rfl, rfl, rfl, rfl, rfl, rfl⟩⟩

/-- What the six conditional branches share: the first operand is the field rj, the second the field
rd, and the truth value handed to `branchIf` picks between the target and the next instruction. -/
theorem fields_and_transfer_of_branchIf {i : Instr} {op : BitVec 6} {rj rd : Reg}
    {offs16 : BitVec 16} {s : State} {c : Bool} {p : Prop} [Decidable p]
    (hword : encode i = encode2RI16 op offs16 rj rd)
    (hexec : exec i s = .next (branchIf c offs16 s)) (hc : c = true ↔ p) :
    (encode i).extractLsb' 5 5 = rj ∧ (encode i).extractLsb' 0 5 = rd ∧
      Transfers i s (if p then wordsFrom s.pc offs16 else s.pc + 4#32) := by
  rw [branchIf_eq] at hexec
  refine ⟨hword ▸ fieldRj_encode2RI16 op offs16 rj rd, hword ▸ fieldRd_encode2RI16 op offs16 rj rd,
    transfers_of_exec_setPc hexec ?_⟩
  simp only [hc, branchTarget_eq_wordsFrom]

/-! The comparisons. -/

theorem lessSigned_iff (a b : Word) : lessSigned a b = true ↔ a.toInt < b.toInt := decide_eq_true_iff

theorem lessUnsigned_iff (a b : Word) : lessUnsigned a b = true ↔ a.toNat < b.toNat :=
  decide_eq_true_iff

theorem not_lessSigned_iff (a b : Word) : (!lessSigned a b) = true ↔ a.toInt ≥ b.toInt := by
  rw [Bool.not_eq_true', ← Bool.not_eq_true, lessSigned_iff, Int.not_lt]

theorem not_lessUnsigned_iff (a b : Word) : (!lessUnsigned a b) = true ↔ a.toNat ≥ b.toNat := by
  rw [Bool.not_eq_true', ← Bool.not_eq_true, lessUnsigned_iff, Nat.not_lt]

/-- Settles O14: `fields_and_transfer_of_branchIf` for each of the six, with its comparison as a
proposition. -/
theorem conditionalBranches : Obligations.ConditionalBranches := by
  intro s rj rd offs16
  refine ⟨⟨EncodingMatchesTable.beq rj rd offs16 rfl, ?beq⟩,
    ⟨EncodingMatchesTable.bne rj rd offs16 rfl, ?bne⟩,
    ⟨EncodingMatchesTable.blt rj rd offs16 rfl, ?blt⟩,
    ⟨EncodingMatchesTable.bge rj rd offs16 rfl, ?bge⟩,
    ⟨EncodingMatchesTable.bltu rj rd offs16 rfl, ?bltu⟩,
    ⟨EncodingMatchesTable.bgeu rj rd offs16 rfl, ?bgeu⟩⟩
  case beq => exact fields_and_transfer_of_branchIf rfl rfl beq_iff_eq
  case bne => exact fields_and_transfer_of_branchIf rfl rfl bne_iff_ne
  case blt => exact fields_and_transfer_of_branchIf rfl rfl (lessSigned_iff _ _)
  case bge => exact fields_and_transfer_of_branchIf rfl rfl (not_lessSigned_iff _ _)
  case bltu => exact fields_and_transfer_of_branchIf rfl rfl (lessUnsigned_iff _ _)
  case bgeu => exact fields_and_transfer_of_branchIf rfl rfl (not_lessUnsigned_iff _ _)

/-- Settles O15: JIRL's target is formed from the state before the link is written, so it uses the
old x[rj] also when rd = rj. -/
theorem jumps : Obligations.Jumps := by
  intro s rd rj offs16 offs26
  refine ⟨⟨EncodingMatchesTable.b offs26 rfl, ?split, ?b⟩,
    ⟨EncodingMatchesTable.bl offs26 rfl, ?bl⟩, ⟨EncodingMatchesTable.jirl rd rj offs16 rfl, ?jirl⟩⟩
  case split => exact (fieldI26_encodeI26 _ offs26).symm
  case b => exact transfers_of_exec_setPc rfl (branchTarget_eq_wordsFrom offs26 s)
  case bl => exact linksAndJumps_of_exec rfl (branchTarget_eq_wordsFrom offs26 s)
  case jirl => exact linksAndJumps_of_exec rfl (add_byteOffset (s.reg rj) offs16)

end Sys2Proof.Machine
end

section
/-! PROOFS. Data accesses, as all loads and stores make them (`43_load_store.md` R280): when one
succeeds, when one traps, and the bytes of a value in memory (`20_memory.md` R82). -/

namespace Sys2Proof.Machine

/-! What an access comes to. -/

theorem aligned_iff {n : Nat} {va : Word} : aligned n va = true ↔ va.toNat % n = 0 := beq_iff_eq

theorem aligned_eq_false_iff {n : Nat} {va : Word} : aligned n va = false ↔ va.toNat % n ≠ 0 :=
  beq_eq_false_iff_ne

theorem access_of_reaches {kind : AccessKind} {n : Nat} {va pa : Word} {s : State}
    (h : Reaches kind n va pa s) : access kind n va s = .done pa := by
  obtain ⟨haligned, ⟨r, htranslate, hpa⟩, hbacked⟩ := h
  exact access_done.2
    ⟨aligned_iff.2 haligned, r, htranslate, checkBacked_done.2 (hpa ▸ hbacked), hpa⟩

theorem access_misaligned {n : Nat} {va : Word} (h : va.toNat % n ≠ 0) (kind : AccessKind)
    (s : State) : access kind n va s = .trap (.ale va) :=
  access_trap.2 (.inl ⟨aligned_eq_false_iff.2 h, rfl⟩)

theorem access_translate_trap {kind : AccessKind} {n : Nat} {va : Word} {s : State} {x : Trap}
    (haligned : va.toNat % n = 0) (h : translate kind va s = .trap x) :
    access kind n va s = .trap x :=
  access_trap.2 (.inr ⟨aligned_iff.2 haligned, h⟩)

/-! Every load and store is an access, and then `f` at the physical address. -/

section
variable {i : Instr} {s : State} {kind : AccessKind} {n : Nat} {va : Word} {f : Word → Attempt State}

theorem exec_of_reaches {pa : Word} (hexec : exec i s = ((access kind n va s).bind f).outcome s)
    (h : Reaches kind n va pa s) : exec i s = (f pa).outcome s := by
  rw [hexec, access_of_reaches h]
  rfl

theorem traps_of_access_trap {x : Trap}
    (hexec : exec i s = ((access kind n va s).bind f).outcome s)
    (h : access kind n va s = .trap x) :
    Traps i x.ecode.toNat x.esubcode.toNat x.badAddress x.pageAddress s :=
  ⟨_, hexec.trans (outcome_next.2 (.inr ⟨x, bind_trap.2 (.inl h), rfl⟩)), enters_trapEntry x s⟩

/-- R280 step 2: a misaligned access raises ALE and records its address in BADV alone. -/
theorem traps_of_misaligned (hexec : exec i s = ((access kind n va s).bind f).outcome s)
    (h : va.toNat % n ≠ 0) : Traps i 0x9 0 (some va) none s :=
  traps_of_access_trap hexec (access_misaligned h kind s)

end

/-! The value of the bytes at an address. -/

theorem toNat_append_eq_add {m n : Nat} (high : BitVec m) (low : BitVec n) :
    (high ++ low).toNat = low.toNat + 2 ^ n * high.toNat := by
  rw [BitVec.toNat_append, ← Nat.shiftLeft_add_eq_or_of_lt low.isLt, Nat.shiftLeft_eq,
    Nat.mul_comm, Nat.add_comm]

theorem toNat_readHalf (s : State) (pa : Word) : (Memory.readHalf s.mem pa).toNat = halfAt s pa :=
  toNat_append_eq_add _ _

theorem toNat_readWord (s : State) (pa : Word) : (Memory.readWord s.mem pa).toNat = wordAt s pa := by
  simp only [Memory.readWord, toNat_append_eq_add, wordAt, State.byteAt]
  omega

theorem toNat_zext32 {w : Nat} (hw : w ≤ 32) (v : BitVec w) : (zext32 v).toNat = v.toNat :=
  BitVec.toNat_setWidth_of_le hw

/-! The bytes at the addresses of a store, and at all others. -/

/-- Memory outside the stored bytes, for every length: one byte is `byteAt_store1`, and the rest of
the bytes are a store from the next address on. -/
theorem byteAt_storeBytes_outside {bs : List Byte} {s : State} {pa c : Word}
    (h : ∀ k, k < bs.length → c ≠ pa + BitVec.ofNat 32 k) :
    (s.storeBytes pa bs).byteAt c = s.byteAt c := by
  induction bs generalizing s pa with
  | nil => rfl
  | cons b rest ih =>
    have hfirst : c ≠ pa := by simpa using h 0 (by simp)
    have hrest : ∀ k, k < rest.length → c ≠ pa + 1#32 + BitVec.ofNat 32 k := fun k hk => by
      rw [byte_after_next]
      exact h (k + 1) (by simpa using hk)
    calc (s.storeBytes pa (b :: rest)).byteAt c
        = ((s.storeBytes pa [b]).storeBytes (pa + 1#32) rest).byteAt c := rfl
      _ = (s.storeBytes pa [b]).byteAt c := ih hrest
      _ = s.byteAt c := by rw [byteAt_store1, if_neg hfirst]

/-- No two bytes of a store fall on one address, as long as it does not go round the whole space. -/
theorem ne_add_ofNat_succ (pa : Word) {k : Nat} (h : k + 1 < 2 ^ 32) :
    pa ≠ pa + 1#32 + BitVec.ofNat 32 k := by
  rw [byte_after_next]
  bv_omega

theorem byteAt_storeBytes_inside {bs : List Byte} {s : State} {pa : Word} {k : Nat} {b : Byte}
    (hlen : bs.length ≤ 2 ^ 32) (h : bs[k]? = some b) :
    (s.storeBytes pa bs).byteAt (pa + BitVec.ofNat 32 k) = b := by
  induction bs generalizing s pa k with
  | nil => simp at h
  | cons b' rest ih =>
    rw [List.length_cons] at hlen
    cases k with
    | zero =>
      obtain rfl : b' = b := by simpa using h
      rw [BitVec.add_zero]
      calc (s.storeBytes pa (b' :: rest)).byteAt pa
          = ((s.storeBytes pa [b']).storeBytes (pa + 1#32) rest).byteAt pa := rfl
        _ = (s.storeBytes pa [b']).byteAt pa :=
          byteAt_storeBytes_outside fun j hj => ne_add_ofNat_succ pa (by omega)
        _ = b' := by rw [byteAt_store1, if_pos rfl]
    | succ k =>
      rw [← byte_after_next]
      exact ih (s := s.storeBytes pa [b']) (by omega) (by simpa using h)

theorem storedBytes_storeBytes (s : State) (pa : Word) {bs : List Byte}
    (hlen : bs.length ≤ 2 ^ 32) :
    StoredBytes pa (bs.map BitVec.toNat) s (s.storeBytes pa bs) := by
  refine ⟨fun k n hk => ?stored, fun c hc => ?outside⟩
  case stored =>
    rw [List.getElem?_map, Option.map_eq_some_iff] at hk
    obtain ⟨b, hb, rfl⟩ := hk
    rw [byteAt_storeBytes_inside hlen hb]
  case outside => exact byteAt_storeBytes_outside (by simpa using hc)

/-- The low bytes of a word as numbers, lowest first. -/
theorem map_toNat_lowBytes (n : Nat) (v : Word) :
    ((List.range n).map fun k => v.extractLsb' (8 * k) 8).map BitVec.toNat =
      littleEndian n v.toNat := by
  simp [littleEndian, Function.comp_def, Nat.shiftRight_eq_div_pow]

theorem map_toNat_wordBytes (v : Word) : (wordBytes v).map BitVec.toNat = littleEndian 4 v.toNat :=
  map_toNat_lowBytes 4 v

theorem map_toNat_halfBytes (v : Word) :
    (halfBytes (v.extractLsb' 0 16)).map BitVec.toNat = littleEndian 2 v.toNat := by
  have hlow : halfBytes (v.extractLsb' 0 16) = [v.extractLsb' 0 8, v.extractLsb' 8 8] := by
    simp [halfBytes, BitVec.extractLsb'_extractLsb'_of_le]
  rw [hlow]
  exact map_toNat_lowBytes 2 v

end Sys2Proof.Machine
end

section
/-! PROOFS. Loads, stores, LL.W, SC.W and the instructions without an effect (`43_load_store.md` R281
to R299): each is one access followed by what it does at the physical address. -/

namespace Sys2Proof.Machine
open Laws

/-- Registers, the pc, LLbit and memory are no part of the system, so any write to them leaves it. -/
theorem sameSystem_update (s : State) (gpr : Vector Word 32) (pc : Word) (llbit : Bool)
    (mem : List Host.Cell) :
    SameSystem s { s with gpr := gpr, pc := pc, llbit := llbit, mem := mem } :=
  ⟨rfl, rfl, ⟨rfl, rfl, rfl, rfl, rfl, rfl, rfl, rfl⟩⟩

/-! Loads. -/

theorem computes_of_load {i : Instr} {n : Nat} {va pa : Word} {f : Word → Word} {rd : Reg} {s : State}
    {P : Word → Prop} (hexec : exec i s = (load n va f rd s).outcome s) (hP : P (f pa))
    (h : Reaches .load n va pa s) : Computes i rd s P :=
  computes_of_exec_writeNext (exec_of_reaches hexec h) hP

/-- Settles O18: each load is one access, with the value that it reads at the physical address. -/
theorem loads : Obligations.Loads := by
  intro s rd rj si12 pa
  refine ⟨⟨EncodingMatchesTable.ldB rd rj si12 rfl, ?ldB⟩,
    ⟨EncodingMatchesTable.ldBu rd rj si12 rfl, ?ldBu⟩,
    ⟨EncodingMatchesTable.ldH rd rj si12 rfl, ?ldH, traps_of_misaligned rfl⟩,
    ⟨EncodingMatchesTable.ldHu rd rj si12 rfl, ?ldHu, traps_of_misaligned rfl⟩,
    ⟨EncodingMatchesTable.ldW rd rj si12 rfl, ?ldW, traps_of_misaligned rfl⟩⟩
  case ldB => exact computes_of_load rfl (toInt_sext32 (by decide) _)
  case ldBu => exact computes_of_load rfl (toNat_zext32 (by decide) _)
  case ldH =>
    refine computes_of_load rfl ?_
    rw [toInt_sext32 (by decide), BitVec.toInt_eq_toNat_bmod, toNat_readHalf]
  case ldHu => exact computes_of_load rfl ((toNat_zext32 (by decide) _).trans (toNat_readHalf s pa))
  case ldW => exact computes_of_load rfl (toNat_readWord s pa)

/-! Stores. -/

theorem stores_of_store {i : Instr} {va pa : Word} {bs : List Byte} {ns : List Nat} {s : State}
    (hexec : exec i s = (store va bs s).outcome s) (hlen : bs.length ≤ 2 ^ 32)
    (hbytes : bs.map BitVec.toNat = ns) (h : Reaches .store bs.length va pa s) :
    Stores i pa ns s :=
  ⟨(s.storeBytes pa bs).advance, exec_of_reaches hexec h, hbytes ▸ storedBytes_storeBytes s pa hlen,
    fun _ => rfl, BitVec.toNat_add _ _, rfl, rfl, sameSystem_update s _ _ _ _⟩

/-- Settles O19: each store is one access, with the low bytes of x[rd] at the physical address. -/
theorem stores : Obligations.Stores := by
  intro s rd rj si12 pa
  refine ⟨⟨EncodingMatchesTable.stB rd rj si12 rfl, ?stB⟩,
    ⟨EncodingMatchesTable.stH rd rj si12 rfl, ?stH, traps_of_misaligned rfl⟩,
    ⟨EncodingMatchesTable.stW rd rj si12 rfl, ?stW, traps_of_misaligned rfl⟩⟩
  case stB => exact stores_of_store rfl (by simp) (map_toNat_lowBytes 1 (s.reg rd))
  case stH => exact stores_of_store rfl (by simp [halfBytes]) (map_toNat_halfBytes (s.reg rd))
  case stW => exact stores_of_store rfl (by simp [wordBytes]) (map_toNat_wordBytes (s.reg rd))

/-! LL.W. -/

theorem bind_bind {α β γ : Type} (x : Attempt α) (f : α → Attempt β) (g : β → Attempt γ) :
    (x.bind f).bind g = x.bind fun a => (f a).bind g := by
  cases x <;> rfl

/-- LL.W as one access: LLbit is set only on the state after the load. -/
theorem exec_llW_eq (rd rj : Reg) (si14 : BitVec 14) (s : State) :
    exec (.llW rd rj si14) s =
      ((access .load 4 (linkAddress rj si14 s) s).bind fun pa =>
        .done { writeNext rd (Memory.readWord s.mem pa) s with llbit := true }).outcome s :=
  congrArg (Attempt.outcome · s) (bind_bind _ _ _)

/-- Settles O20: `exec_llW_eq` makes every trap a trap of the access, taken from the state before. -/
theorem loadLinked : Obligations.LoadLinked := by
  intro s rd rj si14 pa
  have hexec := exec_llW_eq rd rj si14 s
  refine ⟨EncodingMatchesTable.llW rd rj si14 rfl, fun h => ?completes,
    fun x ha hx => traps_of_access_trap hexec (access_translate_trap ha hx),
    traps_of_misaligned hexec⟩
  case completes =>
    exact ⟨_, _, exec_of_reaches hexec h, toNat_readWord s pa, (reg_writeNext s rd · _), rfl,
      BitVec.toNat_add _ _, fun _ => rfl, rfl, sameSystem_update s _ _ _ _⟩

/-! SC.W. -/

theorem exec_scW_linked {rd rj : Reg} {si14 : BitVec 14} {s : State} (hl : s.llbit = true)
    (ha : (linkAddress rj si14 s).toNat % 4 = 0) :
    exec (.scW rd rj si14) s = (storeConditional rd (linkAddress rj si14 s) s).outcome s :=
  (if_pos (aligned_iff.2 ha)).trans (if_pos hl)

theorem exec_scW_unlinked {rd rj : Reg} {si14 : BitVec 14} {s : State} (hl : s.llbit = false)
    (ha : (linkAddress rj si14 s).toNat % 4 = 0) :
    exec (.scW rd rj si14) s = .next (writeNext rd 0#32 s) :=
  (if_pos (aligned_iff.2 ha)).trans (if_neg (by simp [hl]))

theorem exec_scW_misaligned {rd rj : Reg} {si14 : BitVec 14} {s : State}
    (ha : (linkAddress rj si14 s).toNat % 4 ≠ 0) :
    exec (.scW rd rj si14) s = .next (trapEntry (.ale (linkAddress rj si14 s)) s.pc s) :=
  if_neg (mt aligned_iff.1 ha)

/-- Settles O21: SC.W checks the alignment, then LLbit, and only with LLbit 1 is it an access, whose
trap leaves the registers and LLbit. The namespace keeps the name apart from the operation's. -/
theorem LoadStore.storeConditional : Obligations.StoreConditional := by
  intro s rd rj si14 pa
  refine ⟨EncodingMatchesTable.scW rd rj si14 rfl, fun hl h => ?stored,
    fun hl ha => computes_of_exec_writeNext (exec_scW_unlinked hl ha) rfl,
    fun x hl ha hx => ?trapped, fun ha => ⟨_, exec_scW_misaligned ha, enters_trapEntry (.ale _) s⟩⟩
  case stored =>
    have ⟨ha, _, _⟩ := h
    have hbytes := storedBytes_storeBytes s pa (bs := wordBytes (s.reg rd)) (by simp [wordBytes])
    rw [map_toNat_wordBytes] at hbytes
    exact ⟨_, exec_of_reaches (exec_scW_linked hl ha) h,
      (reg_writeNext (s.storeBytes pa (wordBytes (s.reg rd))) rd · 1#32), hbytes, rfl,
      BitVec.toNat_add _ _, rfl, sameSystem_update s _ _ _ _⟩
  case trapped =>
    obtain ⟨t, hnext, hentered⟩ := traps_of_access_trap (exec_scW_linked (rd := rd) hl ha)
      (access_translate_trap ha hx)
    exact ⟨t, hnext, hentered.llbit, hentered.regs, hentered.mem⟩

/-! Instructions without an effect. -/

theorem skips_of_exec_advance {i : Instr} {s : State} (h : exec i s = .next s.advance) :
    Skips i s :=
  ⟨_, h, onlyPc_setPc s _, BitVec.toNat_add _ _⟩

/-- Settles O22: all four end in `advance` and look at none of their operands; CACOP asks for PLV0
before it does. -/
theorem noEffectInstructions : Obligations.NoEffectInstructions := by
  intro s op rj si12 hint
  exact ⟨⟨EncodingMatchesTable.preld op rj si12 rfl, skips_of_exec_advance rfl⟩,
    ⟨EncodingMatchesTable.dbar hint rfl, skips_of_exec_advance rfl⟩,
    ⟨EncodingMatchesTable.ibar hint rfl, skips_of_exec_advance rfl⟩,
    ⟨EncodingMatchesTable.cacop op rj si12 rfl,
      fun hp => skips_of_exec_advance (privileged_kernel hp _),
      fun hp => ⟨_, privileged_user hp _, enters_trapEntry .ipe s⟩⟩⟩

end Sys2Proof.Machine
end

section
/-! PROOFS. System calls and the reads of time (`44_barrier_system_time.md` R315 to R322): none of the
five asks for a privilege level. -/

namespace Sys2Proof.Machine
open Laws

/-! System calls. -/

/-- An instruction that ends with `raise` traps from its own address, whatever the level is. -/
theorem traps_of_exec_raise {i : Instr} {x : Trap} {s : State} (h : exec i s = raise x s) :
    Traps i x.ecode.toNat x.esubcode.toNat x.badAddress x.pageAddress s :=
  ⟨trapEntry x s.pc s, h, enters_trapEntry x s⟩

/-- Settles O24: both are `raise` whatever the code is, of SYS and of BRK, which record no address. -/
theorem syscallBreak : Obligations.SyscallBreak := by
  intro s code
  exact ⟨⟨EncodingMatchesTable.syscall code rfl, traps_of_exec_raise (x := .sys) rfl⟩,
    ⟨EncodingMatchesTable.brk code rfl, traps_of_exec_raise (x := .brk) rfl⟩⟩

/-! The Stable Counter and its ID. -/

/-- The low word of a double word, unsigned; `toNat_lowWord` reads the double word as signed. -/
theorem toNat_lowWord_unsigned (p : BitVec 64) : (p.extractLsb' 0 32).toNat = p.toNat % 2 ^ 32 :=
  BitVec.extractLsb'_toNat 0 32 p

/-- The word of RDCNTID for every rj: rj 0, which is not well-formed, has the bits of the row too. -/
theorem row_rdcntid (rj : Reg) : Row (.rdcntid rj) 0x00006000 0xFFFFFC1F :=
  (encode2R_rj_row _ _ _).trans rfl

theorem csrRead_tid (s : State) : csrRead 0x40#14 s = s.csr.tid := csrRead_csrNumber .tid s

/-- Settles O25: each writes one register and the pc, with a half of the counter or CSR.TID. -/
theorem readCounter : Obligations.ReadCounter := by
  intro s rd rj
  exact ⟨⟨EncodingMatchesTable.rdcntvlW rd rfl,
      computes_of_exec_writeNext rfl (toNat_lowWord_unsigned _)⟩,
    ⟨EncodingMatchesTable.rdcntvhW rd rfl, computes_of_exec_writeNext rfl (toNat_highWord _)⟩,
    ⟨row_rdcntid rj, computes_of_exec_writeNext rfl (csrRead_tid s).symm⟩⟩

end Sys2Proof.Machine
end

section
/-! PROOFS. The check of the level that the privileged instructions share (`45_privileged.md` R370),
and CSRRD (R330): the word of every CSR as the number that its layout gives. -/

namespace Sys2Proof.Machine
open Laws

/-! The check of the level. -/

section
variable {i : Instr} {s : State} {body : Attempt State}

theorem checksPrivilege_of_exec_privileged (h : exec i s = privileged s body) :
    ChecksPrivilege i s :=
  fun hp => ⟨_, h.trans (privileged_user hp body), enters_trapEntry .ipe s⟩

/-- At PLV0 an instruction whose body completes has the body's next state. -/
theorem exec_eq_next_of_kernel {t : State} (hp : s.csr.crmd.plv = 0#2)
    (h : exec i s = privileged s body) (hbody : body = .done t) : exec i s = .next t := by
  rw [h, privileged_kernel hp, hbody, outcome_done]

theorem exec_eq_refused_of_kernel {r : Refusal} (hp : s.csr.crmd.plv = 0#2)
    (h : exec i s = privileged s body) (hbody : body = .refuse r) : exec i s = .refused r := by
  rw [h, privileged_kernel hp, hbody]
  rfl

end

/-- An instruction that changes CSRs, the TLB and the count of draws and then advances is confined to
them. -/
theorem systemOnly_of_exec {i : Instr} {s : State} {csr : Csrs} {tlb : List TlbEntry} {draws : Nat}
    (h : exec i s = .next { s with csr := csr, tlb := tlb, draws := draws }.advance) :
    SystemOnly i s { s with csr := csr, tlb := tlb, draws := draws }.advance :=
  ⟨h, fun _ => rfl, fun _ => rfl, rfl, BitVec.toNat_add _ _,
    ⟨rfl, rfl, rfl, rfl, rfl, rfl, rfl, rfl⟩⟩

/-! The layouts of the CSRs as numbers: fields beside each other are a sum, each field times the
power of two of its lowest bit. -/

theorem toNat_flagBit (b : Bool) : (flagBit b).toNat = b.toNat := BitVec.toNat_ofBool b

theorem Crmd.toNat_toWord (c : Crmd) :
    c.toWord.toNat = c.plv.toNat + 4 * c.ie.toNat + 8 * c.da.toNat + 16 * c.pg.toNat +
      32 * c.datf.toNat + 128 * c.datm.toNat := by
  simp only [Crmd.toWord, toNat_append_eq_add, toNat_flagBit, BitVec.toNat_zero]
  omega

theorem Prmd.toNat_toWord (p : Prmd) : p.toWord.toNat = p.pplv.toNat + 4 * p.pie.toNat := by
  simp only [Prmd.toWord, toNat_append_eq_add, toNat_flagBit, BitVec.toNat_zero]
  omega

theorem Ecfg.toNat_toWord (e : Ecfg) :
    e.toWord.toNat = e.lieLow.toNat + 2 ^ 11 * e.lieHigh.toNat := by
  simp only [Ecfg.toWord, Ecfg.lie, toNat_append_eq_add, BitVec.toNat_zero]
  omega

theorem toNat_estatWord (s : State) : (estatWord s).toNat = estatValue s := by
  simp only [estatWord, interruptStatus, estatValue, toNat_append_eq_add, toNat_flagBit,
    BitVec.toNat_zero]
  omega

theorem TlbIdx.toNat_toWord (t : TlbIdx) :
    t.toWord.toNat = t.index.toNat + 2 ^ 24 * t.ps.toNat + 2 ^ 31 * t.ne.toNat := by
  simp only [TlbIdx.toWord, toNat_append_eq_add, toNat_flagBit, BitVec.toNat_zero]
  omega

theorem TlbElo.toNat_toWord (t : TlbElo) : t.toWord.toNat = eloValue t := by
  simp only [TlbElo.toWord, eloValue, toNat_append_eq_add, toNat_flagBit, BitVec.toNat_zero]
  omega

theorem toNat_asidWord (a : BitVec 10) :
    (0#8 ++ 10#8 ++ 0#6 ++ a : Word).toNat = a.toNat + 2 ^ 16 * 10 := by
  simp only [toNat_append_eq_add, BitVec.toNat_ofNat]
  omega

theorem Tcfg.toNat_toWord (t : Tcfg) :
    t.toWord.toNat = t.en.toNat + 2 * t.periodic.toNat + 4 * t.initVal.toNat := by
  simp only [Tcfg.toWord, toNat_append_eq_add, toNat_flagBit]
  omega

theorem toNat_llbctlWord (s : State) :
    (llbctlWord s).toNat = s.llbit.toNat + 4 * s.csr.klo.toNat := by
  simp only [llbctlWord, toNat_append_eq_add, toNat_flagBit, BitVec.toNat_zero]
  omega

theorem Dmw.toNat_toWord (d : Dmw) : d.toWord.toNat = dmwValue d := by
  simp only [Dmw.toWord, dmwValue, toNat_append_eq_add, toNat_flagBit, BitVec.toNat_zero]
  omega

theorem toNat_zeros_append {m n : Nat} (v : BitVec n) : (0#m ++ v).toNat = v.toNat := by
  rw [toNat_append_eq_add, BitVec.toNat_zero, Nat.mul_zero, Nat.add_zero]

/-- PGD shows the directory of the half that BADV lies in (`10_state.md` R46). -/
theorem toNat_pgdBase (c : Csrs) :
    (pgdBase c).toNat = if c.badv.toNat < 2 ^ 31 then c.pgdl.toNat else c.pgdh.toNat := by
  have hhalf : c.badv.getLsbD 31 = decide (2 ^ 31 ≤ c.badv.toNat) :=
    (BitVec.msb_eq_getLsbD_last c.badv).symm.trans (BitVec.msb_eq_decide c.badv)
  by_cases h : c.badv.toNat < 2 ^ 31
  · rw [pgdBase, hhalf, if_neg (by simpa using h), if_pos h]
  · rw [pgdBase, hhalf, if_pos (by simpa using h), if_neg h]

/-- The word of each defined CSR is the number that the statements give for it. -/
theorem toNat_csrWord (c : CsrName) (s : State) :
    (csrWord c s).toNat = csrValue (csrNumber c).toNat s := by
  cases c with
  | crmd => exact Crmd.toNat_toWord _
  | prmd => exact Prmd.toNat_toWord _
  | ecfg => exact Ecfg.toNat_toWord _
  | estat => exact toNat_estatWord s
  | tlbidx => exact TlbIdx.toNat_toWord _
  | tlbelo0 | tlbelo1 => exact TlbElo.toNat_toWord _
  | asid => exact toNat_asidWord _
  | eentry | tlbreentry => exact toNat_append_zeros _ 6
  | tlbehi => exact toNat_append_zeros _ 13
  | pgdl | pgdh => exact toNat_append_zeros _ 12
  | pgd => exact (toNat_append_zeros _ 12).trans (congrArg _ (toNat_pgdBase s.csr))
  | cpuid => exact toNat_zeros_append _
  | tcfg => exact Tcfg.toNat_toWord _
  | llbctl => exact toNat_llbctlWord s
  | dmw0 | dmw1 => exact Dmw.toNat_toWord _
  | euen | era | badv | save0 | save1 | save2 | save3 | tid | tval | ticlr | ctag => rfl

theorem csrValue_undefined {n : BitVec 14} (h : n ∉ definedCsrs) (s : State) :
    csrValue n.toNat s = 0 := by
  simp only [definedCsrs, List.mem_cons, List.not_mem_nil, or_false, not_or, ← BitVec.toNat_inj,
    BitVec.reduceToNat] at h
  simp only [csrValue, h, if_false]

theorem toNat_csrRead (n : BitVec 14) (s : State) : (csrRead n s).toNat = csrValue n.toNat s := by
  cases hc : csrNamed n with
  | none =>
    have hn : n ∉ definedCsrs := csrNamed_eq_none_iff.1 hc
    rw [csrRead_undefined hn, csrValue_undefined hn, BitVec.toNat_zero]
  | some c =>
    obtain rfl := csrNumber_of_csrNamed hc
    rw [csrRead_csrNumber, toNat_csrWord]

/-- Settles O27: CSRRD writes `csrRead`, and `toNat_csrRead` is its layout. -/
theorem csrReadLayout : Obligations.CsrReadLayout := by
  intro s rd csr
  exact ⟨EncodingMatchesTable.csrrd rd csr rfl, checksPrivilege_of_exec_privileged rfl,
    fun hp => computes_of_exec_writeNext (exec_csrrd_kernel hp rd csr) (toNat_csrRead csr s)⟩

end Sys2Proof.Machine
end

section
/-! PROOFS. What a search of the TLB finds (`20_memory.md` R104, `45_privileged.md` R344): none, one or
several of the entries that match an address. -/

namespace Sys2Proof.Machine

theorem hits_iff_entryMatches {e : TlbEntry} {asid : BitVec 10} {va : Word} :
    e.hits asid va = true ↔ EntryMatches e asid va := by
  simp [TlbEntry.hits, TlbEntry.covers, EntryMatches, Nat.shiftRight_eq_div_pow, and_assoc]

/-- The hits are the entries that match, each beside its index. -/
theorem tlbHitsFrom_eq_filter_zipIdx (asid : BitVec 10) (va : Word) (i : Nat) (l : List TlbEntry) :
    tlbHitsFrom asid va i l =
      ((l.zipIdx i).filter fun p => p.1.hits asid va).map Prod.swap := by
  induction l generalizing i with
  | nil => rfl
  | cons e rest ih => cases h : e.hits asid va <;> simp [tlbHitsFrom, h, ih]

section
variable {asid : BitVec 10} {va : Word} {l : List TlbEntry}

theorem mem_tlbHitsFrom_zero {i : Nat} {e : TlbEntry} :
    (i, e) ∈ tlbHitsFrom asid va 0 l ↔ l[i]? = some e ∧ EntryMatches e asid va := by
  simp [tlbHitsFrom_eq_filter_zipIdx, List.mem_zipIdx_iff_getElem?, hits_iff_entryMatches]

theorem nodup_tlbHitsFrom (i : Nat) : (tlbHitsFrom asid va i l).Nodup := by
  have hzip : (l.zipIdx i).Nodup :=
    .of_map Prod.snd (by rw [List.zipIdx_map_snd]; exact List.nodup_range')
  rw [tlbHitsFrom_eq_filter_zipIdx]
  exact (hzip.filter _).map Prod.swap_injective

theorem tlbSearch_of_noneMatches (h : NoneMatches l asid va) : tlbSearch asid va l = .miss := by
  have hnil : tlbHitsFrom asid va 0 l = [] := by
    refine List.eq_nil_iff_forall_not_mem.2 fun ⟨i, e⟩ hmem => ?_
    obtain ⟨hi, hmatch⟩ := mem_tlbHitsFrom_zero.1 hmem
    exact h e (List.mem_of_getElem? hi) hmatch
  rw [tlbSearch, hnil]

/-- One entry matches and no other: the list of hits has no duplicates, so it is that one hit. -/
theorem tlbSearch_of_onlyMatch {s : State} {i : Nat} {e : TlbEntry} (h : OnlyMatch s i e asid va) :
    tlbSearch asid va s.tlb = .hit i e := by
  obtain ⟨hi, hmatch, honly⟩ := h
  have hmem : ∀ p, p ∈ tlbHitsFrom asid va 0 s.tlb ↔ p ∈ [(i, e)] := by
    rintro ⟨j, f⟩
    rw [mem_tlbHitsFrom_zero, List.mem_singleton, Prod.mk.injEq]
    constructor
    · rintro ⟨hj, hf⟩
      obtain rfl := honly j f hj hf
      exact ⟨rfl, Option.some.inj (hj.symm.trans hi)⟩
    · rintro ⟨rfl, rfl⟩
      exact ⟨hi, hmatch⟩
  have hsingle : tlbHitsFrom asid va 0 s.tlb = [(i, e)] :=
    List.perm_singleton.1
      ((List.perm_ext_iff_of_nodup (nodup_tlbHitsFrom 0) (List.nodup_singleton _)).2 hmem)
  rw [tlbSearch, hsingle]

theorem tlbSearch_of_severalMatch {s : State} (h : SeveralMatch s asid va) :
    tlbSearch asid va s.tlb = .several := by
  obtain ⟨i, j, e, f, hlt, hi, hj, he, hf⟩ := h
  have hei : (i, e) ∈ tlbHitsFrom asid va 0 s.tlb := mem_tlbHitsFrom_zero.2 ⟨hi, he⟩
  have hfj : (j, f) ∈ tlbHitsFrom asid va 0 s.tlb := mem_tlbHitsFrom_zero.2 ⟨hj, hf⟩
  unfold tlbSearch
  split
  · next hnil => simp [hnil] at hei
  · next k g hone =>
    rw [hone, List.mem_singleton, Prod.mk.injEq] at hei hfj
    omega
  · rfl

end

end Sys2Proof.Machine
end

section
/-! PROOFS. TLBSRCH, TLBRD, TLBWR, TLBFILL and ERTN (`45_privileged.md` R344 to R348, R360): what
each makes of the TLB and of the TLB interface CSRs, and where one stops (U1, U2, U5). -/

namespace Sys2Proof.Machine

/-! TLBSRCH. -/

/-- The address that TLBSRCH searches for is the one whose bits 31:13 are TLBEHI.VPPN. -/
theorem append_zeros_eq_of_toNat {vppn : BitVec 19} {va : Word} (h : va.toNat = vppn.toNat * 2 ^ 13) :
    vppn ++ 0#13 = va := by
  refine BitVec.eq_of_toNat_eq ?_
  rw [toNat_append_zeros, h, Nat.mul_comm]

theorem exec_tlbsrch_eq {s : State} {va : Word} (h : va.toNat = s.csr.tlbehi.toNat * 2 ^ 13) :
    exec .tlbsrch s =
      privileged s ((searchedIdx (tlbSearch s.csr.asid va s.tlb) s.csr.tlbidx).bind
        fun idx => .done { s with csr := { s.csr with tlbidx := idx } }.advance) := by
  rw [← append_zeros_eq_of_toNat h]
  rfl

/-- Settles O34: the three outcomes of the search, each with what `searchedIdx` makes of it. The
namespace keeps the name apart from that of the search. -/
theorem Privileged.tlbSearch : Obligations.TlbSearch := by
  intro s va hva
  have hexec := exec_tlbsrch_eq hva
  refine ⟨rfl, checksPrivilege_of_exec_privileged hexec,
    fun hp => ⟨fun hnone => ?miss, fun i e hi honly => ?hit, fun hseveral => ?several⟩⟩
  case miss =>
    rw [tlbSearch_of_noneMatches hnone] at hexec
    exact ⟨_, systemOnly_of_exec (exec_eq_next_of_kernel hp hexec rfl), rfl, rfl, rfl⟩
  case hit =>
    rw [tlbSearch_of_onlyMatch honly] at hexec
    exact ⟨_, systemOnly_of_exec (exec_eq_next_of_kernel hp hexec rfl), rfl, rfl,
      Nat.mod_eq_of_lt hi, rfl, rfl, rfl⟩
  case several =>
    rw [tlbSearch_of_severalMatch hseveral] at hexec
    exact exec_eq_refused_of_kernel hp hexec rfl

/-! TLBRD. -/

theorem exec_tlbrd_of_entry {s : State} {e : TlbEntry} (hp : s.csr.crmd.plv = 0#2)
    (he : s.tlb[s.csr.tlbidx.index.toNat]? = some e) :
    exec .tlbrd s =
      .next { s with csr := readEntryCsrs s.params.tlbrdInvalidClears e s.csr }.advance :=
  exec_eq_next_of_kernel hp rfl (by rw [he])

theorem exec_tlbrd_outOfRange {s : State} (hp : s.csr.crmd.plv = 0#2)
    (h : s.tlb.length ≤ s.csr.tlbidx.index.toNat) :
    exec .tlbrd s = .refused .tlbIndexOutOfRange :=
  exec_eq_refused_of_kernel hp rfl (by rw [List.getElem?_eq_none h])

theorem readEntryCsrs_valid {e : TlbEntry} (h : e.e = true) (clears : Bool) (c : Csrs) :
    readEntryCsrs clears e c =
      { c with
        tlbidx := { c.tlbidx with ne := false, ps := e.ps }
        tlbehi := e.vppn
        tlbelo0 := e.page0.toElo e.g
        tlbelo1 := e.page1.toElo e.g
        asid := e.asid } := if_pos h

theorem readEntryCsrs_invalid_clears {e : TlbEntry} (h : e.e = false) (c : Csrs) :
    readEntryCsrs true e c =
      { c with
        tlbidx := { c.tlbidx with ne := true, ps := 0#6 }
        tlbehi := 0#19
        tlbelo0 := Csrs.zeroElo
        tlbelo1 := Csrs.zeroElo } := by simp [readEntryCsrs, h]

theorem readEntryCsrs_invalid_keeps {e : TlbEntry} (h : e.e = false) (c : Csrs) :
    readEntryCsrs false e c = { c with tlbidx := { c.tlbidx with ne := true } } := by
  simp [readEntryCsrs, h]

theorem csrRead_tlbehi_eq_zero {s : State} (h : s.csr.tlbehi = 0#19) : csrRead 0x11#14 s = 0#32 :=
  (csrRead_csrNumber .tlbehi s).trans (congrArg (· ++ 0#13) h)

theorem csrRead_tlbelo0_eq_zero {s : State} (h : s.csr.tlbelo0 = Csrs.zeroElo) :
    csrRead 0x12#14 s = 0#32 :=
  (csrRead_csrNumber .tlbelo0 s).trans (congrArg TlbElo.toWord h)

theorem csrRead_tlbelo1_eq_zero {s : State} (h : s.csr.tlbelo1 = Csrs.zeroElo) :
    csrRead 0x13#14 s = 0#32 :=
  (csrRead_csrNumber .tlbelo1 s).trans (congrArg TlbElo.toWord h)

/-- Settles O35: an entry that exists, and one that does not under either value of the parameter. -/
theorem tlbRead : Obligations.TlbRead := by
  intro s
  refine ⟨rfl, checksPrivilege_of_exec_privileged rfl, fun e hp he => ?_⟩
  have hexec := exec_tlbrd_of_entry hp he
  cases hvalid : e.e with
  | true =>
    rw [readEntryCsrs_valid hvalid] at hexec
    exact ⟨_, systemOnly_of_exec hexec, rfl, rfl, rfl, rfl, rfl,
      fun _ => ⟨rfl, rfl, rfl, ⟨rfl, rfl, rfl, rfl, rfl, rfl⟩, ⟨rfl, rfl, rfl, rfl, rfl, rfl⟩⟩,
      nofun⟩
  | false =>
    cases hclears : s.params.tlbrdInvalidClears with
    | true =>
      rw [hclears, readEntryCsrs_invalid_clears hvalid] at hexec
      refine ⟨_, systemOnly_of_exec hexec, rfl, rfl, rfl, rfl, rfl, nofun, fun _ => ⟨rfl, ?_⟩⟩
      rw [if_pos rfl]
      exact ⟨rfl, csrRead_tlbehi_eq_zero rfl, csrRead_tlbelo0_eq_zero rfl, csrRead_tlbelo1_eq_zero rfl⟩
    | false =>
      rw [hclears, readEntryCsrs_invalid_keeps hvalid] at hexec
      refine ⟨_, systemOnly_of_exec hexec, rfl, rfl, rfl, rfl, rfl, nofun, fun _ => ⟨rfl, ?_⟩⟩
      rw [if_neg Bool.false_ne_true]
      exact ⟨rfl, rfl, rfl, rfl⟩

/-! TLBWR and TLBFILL. -/

theorem writesValid_iff {s : State} :
    writesValid s = true ↔
      s.csr.tlbidx.ne = false ∨
        (s.params.tlbwrRefillForcesValid = true ∧ s.csr.estat.ecode.toNat = 0x3F) := by
  simp [writesValid, ← BitVec.toNat_inj]

theorem legalPageSize_iff {p : Params} {ps : BitVec 6} :
    legalPageSize p ps = true ↔ ps.toNat ∈ p.legalPs := by
  simp [legalPageSize]

theorem illegalPageSize_iff {s : State} :
    IllegalPageSize s ↔
      writesValid s = true ∧ ¬ legalPageSize s.params s.csr.tlbidx.ps = true := by
  rw [IllegalPageSize, writesValid_iff, legalPageSize_iff]

theorem not_illegalPageSize_of_mem {s : State} (h : s.csr.tlbidx.ps.toNat ∈ s.params.legalPs) :
    ¬ IllegalPageSize s := fun hillegal => hillegal.2 h

/-- The entry that the model writes is the one of R348. -/
theorem entryWritten_entryFromCsrs (s : State) : EntryWritten s (entryFromCsrs s) where
  valid := writesValid_iff
  vppn := rfl
  ps := rfl
  asid := rfl
  g := Bool.and_eq_true_iff
  page0 := ⟨rfl, rfl, rfl, rfl, rfl⟩
  page1 := ⟨rfl, rfl, rfl, rfl, rfl⟩

theorem writesEntry_of_set {i : Nat} {s t : State} (hi : i < s.tlb.length)
    (ht : t.tlb = s.tlb.set i (entryFromCsrs s)) : WritesEntry i s t := by
  refine ⟨?length, ⟨entryFromCsrs s, ?written, entryWritten_entryFromCsrs s⟩, fun j hj => ?others⟩
  case length => rw [ht, List.length_set]
  case written => rw [ht, List.getElem?_set_self hi]
  case others => rw [ht, List.getElem?_set_ne hj.symm]

section
variable {i : Nat} {s : State}

theorem tlbWriteEntry_legal (hi : i < s.tlb.length) (h : ¬ IllegalPageSize s) :
    tlbWriteEntry i s = .done { s with tlb := s.tlb.set i (entryFromCsrs s) } := by
  rw [illegalPageSize_iff, not_and, not_not] at h
  exact tlbWriteEntry_done.2 ⟨hi, h, rfl⟩

theorem tlbWriteEntry_illegal (hi : i < s.tlb.length) (h : IllegalPageSize s) :
    tlbWriteEntry i s = .refuse .tlbIllegalPageSize := by
  obtain ⟨hvalid, hps⟩ := illegalPageSize_iff.1 h
  rw [tlbWriteEntry, if_neg (Nat.not_le.2 hi), if_pos (by simp [hvalid, hps])]

theorem tlbWriteEntry_outOfRange (hi : s.tlb.length ≤ i) :
    tlbWriteEntry i s = .refuse .tlbIndexOutOfRange := if_pos hi

end

/-- The index of TLBFILL: some number below the number of entries, of which nothing else is known. -/
theorem fillIndex_lt {s : State} (h : 1 ≤ s.tlb.length) :
    Config.tlbFillDraw s.draws % s.tlb.length < s.tlb.length := Nat.mod_lt _ h

/-- A TLBWR that is not stopped: an index in range, and a page size that the entry may hold. -/
theorem tlbwr_of_legal {s : State} (hp : s.csr.crmd.plv = 0#2)
    (hi : s.csr.tlbidx.index.toNat < s.tlb.length) (h : ¬ IllegalPageSize s) :
    ∃ t, SystemOnly .tlbwr s t ∧ WritesEntry s.csr.tlbidx.index.toNat s t ∧ t.csr = s.csr ∧
      t.draws = s.draws :=
  ⟨_, systemOnly_of_exec
      (exec_eq_next_of_kernel hp rfl (bind_done.2 ⟨_, tlbWriteEntry_legal hi h, rfl⟩)),
    writesEntry_of_set hi rfl, rfl, rfl⟩

/-- A TLBFILL that is not stopped writes at the index drawn. -/
theorem tlbfill_of_legal {s : State} (hp : s.csr.crmd.plv = 0#2) (hlen : 1 ≤ s.tlb.length)
    (h : ¬ IllegalPageSize s) :
    ∃ t i, i < s.tlb.length ∧ SystemOnly .tlbfill s t ∧ WritesEntry i s t ∧ t.csr = s.csr :=
  have hi := fillIndex_lt hlen
  ⟨_, _, hi, systemOnly_of_exec
      (exec_eq_next_of_kernel hp rfl (bind_done.2 ⟨_, tlbWriteEntry_legal hi h, rfl⟩)),
    writesEntry_of_set hi rfl, rfl⟩

/-- Settles O36: a legal page size stops no write, whether the entry is valid or not. -/
theorem tlbWrite : Obligations.TlbWrite := fun _ =>
  ⟨rfl, checksPrivilege_of_exec_privileged rfl,
    fun hp hi hps => tlbwr_of_legal hp hi (not_illegalPageSize_of_mem hps)⟩

/-- Settles O37: as O36, at the index drawn, which only `fillIndex_lt` bounds. -/
theorem tlbFill : Obligations.TlbFill := fun _ =>
  ⟨rfl, checksPrivilege_of_exec_privileged rfl,
    fun hp hlen hps => tlbfill_of_legal hp hlen (not_illegalPageSize_of_mem hps)⟩

/-- Settles O38: both instructions write their entry by `tlbWriteEntry`, whose three outcomes are the
clauses; an invalid entry has no illegal page size, so it is written as one of O36 or O37 is. -/
theorem tlbWriteStops : Obligations.TlbWriteStops := by
  intro s hp
  refine ⟨fun hi h => ?illegalWrite, fun hlen h => ?illegalFill, fun hi => ⟨?range, ?readRange⟩,
    fun hi h => ?write, fun hlen h => ?fill⟩
  case illegalWrite =>
    exact exec_eq_refused_of_kernel hp rfl (by rw [tlbWriteEntry_illegal hi h]; rfl)
  case illegalFill =>
    exact exec_eq_refused_of_kernel hp rfl
      (by rw [tlbWriteEntry_illegal (fillIndex_lt hlen) h]; rfl)
  case range => exact exec_eq_refused_of_kernel hp rfl (by rw [tlbWriteEntry_outOfRange hi]; rfl)
  case readRange => exact exec_tlbrd_outOfRange hp hi
  case write =>
    obtain ⟨t, ⟨hnext, _⟩, hwrites, _⟩ := tlbwr_of_legal hp hi h
    exact ⟨t, hnext, hwrites⟩
  case fill =>
    obtain ⟨t, i, hi, ⟨hnext, _⟩, hwrites, _⟩ := tlbfill_of_legal hp hlen h
    exact ⟨t, i, hi, hnext, hwrites⟩

/-! ERTN. -/

theorem exec_ertn_kernel {s : State} (hp : s.csr.crmd.plv = 0#2) :
    exec .ertn s = .next (trapReturn s) := privileged_kernel hp _

/-- Settles O40: `trapReturn` is R360 assignment by assignment. -/
theorem ertn : Obligations.Ertn := by
  intro s
  refine ⟨rfl, checksPrivilege_of_exec_privileged rfl,
    fun hp => ⟨_, exec_ertn_kernel hp, rfl, rfl, ?da, ?pg, rfl, rfl, ?llbit, rfl, rfl, rfl,
      fun _ => rfl, fun _ => rfl, rfl, rfl, ⟨rfl, rfl, rfl, rfl, rfl, rfl, rfl, rfl⟩⟩⟩
  case da => exact if_congr BitVec.toNat_inj.symm rfl rfl
  case pg => exact if_congr BitVec.toNat_inj.symm rfl rfl
  case llbit => rw [trapReturn_llbit]; cases s.csr.klo <;> rfl

end Sys2Proof.Machine
end

section
/-! PROOFS. What the decoder accepts it has read whole (`30_encoding.md` R142, R143, R165): the fields
of a word, put back in the places of their format, are the word again, so a decoded instruction has the
decoded word. One lemma per format, then one link of the decoder's chain per row of the map. -/

namespace Sys2Proof

/-! A word is the opcode and the fields of its format. -/

section
variable {w : Word}

theorem encode3R_of_opcode17 {op : BitVec 17} (h : opcode17 w = op) :
    encode3R op (fieldRk w) (fieldRj w) (fieldRd w) = w := by
  simp only [← h, encode3R, opcode17, fieldRk, fieldRj, fieldRd,
    BitVec.extractLsb'_append_extractLsb'_eq_extractLsb', BitVec.extractLsb'_eq_self]

theorem encode2RI12_of_opcode10 {op : BitVec 10} (h : opcode10 w = op) :
    encode2RI12 op (fieldI12 w) (fieldRj w) (fieldRd w) = w := by
  simp only [← h, encode2RI12, opcode10, fieldI12, fieldRj, fieldRd,
    BitVec.extractLsb'_append_extractLsb'_eq_extractLsb', BitVec.extractLsb'_eq_self]

theorem encode2RI14_of_opcode8 {op : BitVec 8} (h : opcode8 w = op) :
    encode2RI14 op (fieldI14 w) (fieldRj w) (fieldRd w) = w := by
  simp only [← h, encode2RI14, opcode8, fieldI14, fieldRj, fieldRd,
    BitVec.extractLsb'_append_extractLsb'_eq_extractLsb', BitVec.extractLsb'_eq_self]

theorem encode2RI16_of_opcode6 {op : BitVec 6} (h : opcode6 w = op) :
    encode2RI16 op (fieldI16 w) (fieldRj w) (fieldRd w) = w := by
  simp only [← h, encode2RI16, opcode6, fieldI16, fieldRj, fieldRd,
    BitVec.extractLsb'_append_extractLsb'_eq_extractLsb', BitVec.extractLsb'_eq_self]

theorem encode1RI20_of_opcode7 {op : BitVec 7} (h : opcode7 w = op) :
    encode1RI20 op (fieldI20 w) (fieldRd w) = w := by
  simp only [← h, encode1RI20, opcode7, fieldI20, fieldRd,
    BitVec.extractLsb'_append_extractLsb'_eq_extractLsb', BitVec.extractLsb'_eq_self]

theorem encodeI15_of_opcode17 {op : BitVec 17} (h : opcode17 w = op) :
    encodeI15 op (fieldI15 w) = w := by
  simp only [← h, encodeI15, opcode17, fieldI15,
    BitVec.extractLsb'_append_extractLsb'_eq_extractLsb', BitVec.extractLsb'_eq_self]

theorem encode2R_of_opcode22 {op : BitVec 22} (h : opcode22 w = op) :
    encode2R op (fieldRj w) (fieldRd w) = w := by
  simp only [← h, encode2R, opcode22, fieldRj, fieldRd,
    BitVec.extractLsb'_append_extractLsb'_eq_extractLsb', BitVec.extractLsb'_eq_self]

/-- The two parts of an I26 offset, which `fieldI26` puts in order, go back to their places. -/
theorem encodeI26_of_opcode6 {op : BitVec 6} (h : opcode6 w = op) :
    encodeI26 op (fieldI26 w) = w := by
  have hlow : (fieldI26 w).extractLsb' 0 16 = w.extractLsb' 10 16 :=
    BitVec.extractLsb'_append_eq_right
  have hhigh : (fieldI26 w).extractLsb' 16 10 = w.extractLsb' 0 10 :=
    BitVec.extractLsb'_append_eq_left
  simp only [← h, encodeI26, hlow, hhigh, opcode6,
    BitVec.extractLsb'_append_extractLsb'_eq_extractLsb', BitVec.extractLsb'_eq_self]

end

/-! The links of the decoder's chain. -/

/-- If what the word decodes to is an instruction, it is a well-formed one with that very word. -/
def ReadsBack (w : Word) (d : Decoded) : Prop := ∀ i, d = .instr i → encode i = w ∧ i.wf = true

section
variable {w : Word} {i : Instr} {c : Prop} [Decidable c] {d e : Decoded}

theorem readsBack_reject {why : Reject} : ReadsBack w (.reject why) := nofun

theorem readsBack_instr (hw : encode i = w) (hwf : i.wf = true) : ReadsBack w (.instr i) := by
  rintro _ ⟨⟩
  exact ⟨hw, hwf⟩

theorem readsBack_ite (hd : c → ReadsBack w d) (he : ¬ c → ReadsBack w e) :
    ReadsBack w (if c then d else e) := by
  split
  · next h => exact hd h
  · next h => exact he h

/-- A row of the map: the condition on the opcode puts the word together. -/
theorem readsBack_row (hw : c → encode i = w) (hwf : i.wf = true) (he : ReadsBack w e) :
    ReadsBack w (if c then .instr i else e) :=
  readsBack_ite (fun h => readsBack_instr (hw h) hwf) fun _ => he

/-- A word that the decoder recognises only to reject it under a name (R156, R170). -/
theorem readsBack_rejected {why : Reject} (he : ReadsBack w e) :
    ReadsBack w (if c then .reject why else e) :=
  readsBack_ite (fun _ => readsBack_reject) fun _ => he

end

/-! The decoder, part by part. -/

theorem readsBack_decodeRegister (w : Word) : ReadsBack w (decodeRegister w) := by
  unfold decodeRegister
  iterate 20 refine readsBack_row encode3R_of_opcode17 rfl ?_
  iterate 2 refine readsBack_row encodeI15_of_opcode17 rfl ?_
  refine readsBack_ite (fun hop => ?low) fun _ =>
    readsBack_ite (fun hop => ?high) fun _ => readsBack_reject
  case low =>
    have hw := encode2R_of_opcode22 hop
    refine readsBack_ite (fun hrj => readsBack_instr (by rwa [hrj] at hw) rfl) fun hrj =>
      readsBack_ite (fun hrd => readsBack_instr (by rwa [hrd] at hw) ?_) fun _ => readsBack_reject
    simpa [Instr.wf] using hrj
  case high =>
    have hw := encode2R_of_opcode22 hop
    exact readsBack_row (fun hrj => by rwa [hrj] at hw) rfl readsBack_reject

theorem readsBack_decodeShiftImmediate (w : Word) : ReadsBack w (decodeShiftImmediate w) := by
  unfold decodeShiftImmediate
  iterate 3 refine readsBack_row encode3R_of_opcode17 rfl ?_
  exact readsBack_reject

theorem readsBack_decodeMajor00 (w : Word) : ReadsBack w (decodeMajor00 w) := by
  unfold decodeMajor00
  refine readsBack_ite (fun _ => readsBack_decodeRegister w) fun _ =>
    readsBack_ite (fun _ => readsBack_decodeShiftImmediate w) fun _ => ?_
  iterate 6 refine readsBack_row encode2RI12_of_opcode10 rfl ?_
  iterate 2 refine readsBack_rejected ?_
  exact readsBack_reject

theorem readsBack_decodePrivileged (w : Word) : ReadsBack w (decodePrivileged w) := by
  unfold decodePrivileged
  refine readsBack_row encodeI15_of_opcode17 rfl (readsBack_ite (fun hop => ?invtlb) fun _ => ?zeroR)
  case invtlb =>
    exact readsBack_ite
      (fun hle => readsBack_instr (encode3R_of_opcode17 hop) (decide_eq_true hle))
      fun _ => readsBack_reject
  case zeroR =>
    iterate 5 refine readsBack_row Eq.symm rfl ?_
    exact readsBack_reject

theorem readsBack_decodeMajor01 (w : Word) : ReadsBack w (decodeMajor01 w) := by
  unfold decodeMajor01
  refine readsBack_ite (fun hop => ?csr) fun _ => readsBack_row encode2RI12_of_opcode10 rfl <|
    readsBack_ite (fun _ => readsBack_decodePrivileged w) fun _ => readsBack_reject
  have hw := encode2RI14_of_opcode8 hop
  refine readsBack_ite (fun hrj => readsBack_instr (by rwa [hrj] at hw) rfl) fun h0 =>
    readsBack_ite (fun hrj => readsBack_instr (by rwa [hrj] at hw) rfl) fun h1 => readsBack_instr hw ?_
  simp [Instr.wf, h0, h1]

theorem readsBack_decodeMajor0A (w : Word) : ReadsBack w (decodeMajor0A w) := by
  unfold decodeMajor0A
  iterate 9 refine readsBack_row encode2RI12_of_opcode10 rfl ?_
  exact readsBack_reject

theorem readsBack_decodeWord (w : Word) : ReadsBack w (decodeWord w) := by
  unfold decodeWord
  refine readsBack_ite (fun _ => readsBack_decodeMajor00 w) fun _ =>
    readsBack_ite (fun _ => readsBack_decodeMajor01 w) fun _ =>
    readsBack_ite (fun _ => readsBack_rejected readsBack_reject) fun _ =>
    readsBack_ite (fun _ => readsBack_row encode1RI20_of_opcode7 rfl readsBack_reject) fun _ =>
    readsBack_ite (fun _ => readsBack_row encode1RI20_of_opcode7 rfl readsBack_reject) fun _ =>
    readsBack_ite (fun _ => readsBack_row encode2RI14_of_opcode8 rfl <|
      readsBack_row encode2RI14_of_opcode8 rfl readsBack_reject) fun _ =>
    readsBack_ite (fun _ => readsBack_decodeMajor0A w) fun _ =>
    readsBack_ite (fun _ => readsBack_row encodeI15_of_opcode17 rfl <|
      readsBack_row encodeI15_of_opcode17 rfl readsBack_reject) fun _ =>
    readsBack_ite (fun _ => readsBack_rejected readsBack_reject) fun _ => ?_
  refine readsBack_row encode2RI16_of_opcode6 rfl ?_
  iterate 2 refine readsBack_row encodeI26_of_opcode6 rfl ?_
  iterate 6 refine readsBack_row encode2RI16_of_opcode6 rfl ?_
  exact readsBack_reject

end Sys2Proof
end

section
/-! PROOFS. The outcomes of a translation in mapped mode outside the windows (`20_memory.md` R102 to
R105), for every kind of access, on the conditions as the statements write them. -/

namespace Sys2Proof.Machine

/-! The windows. -/

theorem maps_iff_inWindow {d : Dmw} {plv : BitVec 2} {va : Word} :
    d.maps plv va = true ↔ InWindow d plv va := by
  have htop : va.extractLsb' 29 3 = d.vseg ↔ va.toNat / 2 ^ 29 = d.vseg.toNat := by
    rw [← BitVec.toNat_inj, BitVec.extractLsb'_toNat, Nat.shiftRight_eq_div_pow,
      Nat.mod_eq_of_lt (by omega)]
  simp [Dmw.maps, Dmw.enabled, InWindow, htop]

theorem windowLookup_of_noWindow {s : State} {va : Word} (h : NoWindow s va) :
    windowLookup s.csr va = none := by
  obtain ⟨h0, h1⟩ := h
  rw [windowLookup, if_neg (mt maps_iff_inWindow.1 h1), if_neg (mt maps_iff_inWindow.1 h0)]

/-! The half of the space that a level may use. -/

theorem getLsbD_31_iff {va : Word} : va.getLsbD 31 = true ↔ ¬ va.toNat < 2 ^ 31 := by
  rw [← BitVec.testBit_toNat, Nat.testBit_eq_decide_div_mod_eq, decide_eq_true_iff]
  omega

theorem not_mayUse_iff {s : State} {va : Word} :
    ¬ MayUse s va ↔ s.csr.crmd.plv ≠ 0#2 ∧ va.getLsbD 31 = true := by
  rw [MayUse, not_or, getLsbD_31_iff]

section
variable {s : State} {va : Word}

theorem translate_upperHalf (kind : AccessKind) (hm : MappedMode s) (hw : NoWindow s va)
    (hu : ¬ MayUse s va) : translate kind va s = .trap (addressError kind va) := by
  obtain ⟨hda, hpg⟩ := hm
  rw [translate_mapped hda hpg, mappedTranslate, windowLookup_of_noWindow hw]
  exact if_pos (not_mayUse_iff.1 hu)

theorem translate_tlb (kind : AccessKind) (hm : MappedMode s) (hw : NoWindow s va)
    (hu : MayUse s va) : translate kind va s = tlbTranslate kind va s := by
  obtain ⟨hda, hpg⟩ := hm
  rw [translate_mapped hda hpg, mappedTranslate, windowLookup_of_noWindow hw]
  exact if_neg (mt not_mayUse_iff.2 (not_not.2 hu))

/-! The TLB. -/

theorem tlbTranslate_of_noneMatches (kind : AccessKind)
    (h : NoneMatches s.tlb s.csr.asid va) : tlbTranslate kind va s = .trap (.tlbr va) := by
  rw [tlbTranslate, tlbSearch_of_noneMatches h]

theorem tlbTranslate_of_onlyMatch (kind : AccessKind) {j : Nat} {e : TlbEntry}
    (h : OnlyMatch s j e s.csr.asid va) :
    tlbTranslate kind va s = pageCheck kind va s.csr.crmd.plv e := by
  rw [tlbTranslate, tlbSearch_of_onlyMatch h]

end

/-! The page of an entry. -/

theorem page_eq_selectedPage (e : TlbEntry) (va : Word) : e.page va = selectedPage e va := by
  have hbit : va.getLsbD e.ps.toNat = decide (va.toNat / 2 ^ e.ps.toNat % 2 = 1) := by
    rw [← BitVec.testBit_toNat, Nat.testBit_eq_decide_div_mod_eq]
  rw [TlbEntry.page, selectedPage, hbit]
  rcases Nat.mod_two_eq_zero_or_one (va.toNat / 2 ^ e.ps.toNat) with h | h <;> simp [h]

section
variable {va : Word} {plv : BitVec 2} {e : TlbEntry}

theorem pageCheck_invalid (kind : AccessKind) (hv : (selectedPage e va).v = false) :
    pageCheck kind va plv e = .trap (pageInvalid kind va) := by
  rw [pageCheck, page_eq_selectedPage, if_pos hv]

theorem pageCheck_privilege (kind : AccessKind) (hv : (selectedPage e va).v = true)
    (hp : (selectedPage e va).plv.toNat < plv.toNat) :
    pageCheck kind va plv e = .trap (.ppi va) := by
  rw [pageCheck, page_eq_selectedPage, if_neg (by simp [hv]), if_pos (BitVec.lt_def.2 hp)]

end

end Sys2Proof.Machine
end

section
/-! PROOFS. One step from its boundary to its instruction or the trap of its fetch
(`60_exceptions.md` R404, R409, R410, R430, R435): what the boundary and the fetch come to, and then
the statements. -/

namespace Sys2Proof.Machine

/-! The boundary. -/

/-- No reset, no wait that goes on and no interrupt taken: the core goes on awake. -/
theorem boundary_eq_ready {s e : State} (hr : resetAsserted s = false)
    (he : e = { environment s with idleWait := false })
    (hwake : (environment s).idleWait = true → pendingEnabled e ≠ 0#13)
    (hint : e.csr.crmd.ie = false ∨ pendingEnabled e = 0#13) : boundary s = .ready e := by
  subst he
  have hgo : ¬ ((environment s).idleWait = true ∧ pendingEnabled (environment s) = 0#13) :=
    fun ⟨hidle, hnone⟩ => hwake hidle hnone
  have hclear : ¬ ((environment s).csr.crmd.ie = true ∧ pendingEnabled (environment s) ≠ 0#13) :=
    fun ⟨hie, hsome⟩ => hint.elim (fun h => Bool.false_ne_true (h.symm.trans hie)) hsome
  rw [boundary, if_neg (by simp [hr]), interruptDecision, if_neg hgo, if_neg hclear]

theorem step_of_boundary_ready {s e : State} {i : Instr} (hb : boundary s = .ready e)
    (hf : fetchInstr e = .done i) : step s = exec i e := by
  simp only [step, hb, hf]

/-- A fetch that traps in a quiet state is the whole step. -/
theorem stepTraps_of_fetchInstr {s : State} {x : Trap} (q : Quiet s) (h : fetchInstr s = .trap x) :
    StepTraps x.ecode.toNat x.esubcode.toNat x.badAddress x.pageAddress s :=
  ⟨trapEntry x s.pc s, by rw [quiet_step q, h], enters_trapEntry x s⟩

/-! The fetch. -/

theorem fetchBytes_misaligned {s : State} (h : s.pc.toNat % 4 ≠ 0) :
    fetchBytes s = .trap (.adef s.pc) :=
  if_neg (mt aligned_iff.1 h)

theorem fetchBytes_translate_trap {s : State} {x : Trap} (ha : s.pc.toNat % 4 = 0)
    (h : translate .fetch s.pc s = .trap x) : fetchBytes s = .trap x := by
  rw [fetchBytes, if_pos (aligned_iff.2 ha), h]
  rfl

theorem fetchInstr_of_fetchBytes_trap {s : State} {x : Trap} (h : fetchBytes s = .trap x) :
    fetchInstr s = .trap x :=
  bind_trap.2 (.inl h)

/-- The four bytes of a fetch are decoded as the word that they are, little-endian. -/
theorem decodeBytes_instructionBytes (m : List Host.Cell) (pa : Word) :
    decodeBytes (instructionBytes m pa) = decodeWord (Memory.readWord m pa) := rfl

theorem fetchBytes_of_fetches {s : State} {w : Word} (h : Fetches s w) :
    ∃ bytes, fetchBytes s = .done bytes ∧ decodeBytes bytes = decodeWord w := by
  obtain ⟨ha, r, htranslate, hbacked, hword⟩ := h
  have hread : Memory.readWord s.mem r.pa = w :=
    BitVec.eq_of_toNat_eq ((toNat_readWord s r.pa).trans hword)
  refine ⟨instructionBytes s.mem r.pa, ?_, by rw [decodeBytes_instructionBytes, hread]⟩
  rw [fetchBytes, if_pos (aligned_iff.2 ha)]
  exact bind_done.2 ⟨r, htranslate, bind_done.2 ⟨(), checkBacked_done.2 hbacked, rfl⟩⟩

theorem fetchInstr_of_fetches {s : State} {w : Word} {i : Instr} (h : Fetches s w)
    (hd : decodeWord w = .instr i) : fetchInstr s = .done i := by
  obtain ⟨bytes, hbytes, hdecode⟩ := fetchBytes_of_fetches h
  exact fetchInstr_done.2 ⟨bytes, hbytes, hdecode.trans hd⟩

theorem fetchInstr_of_fetches_reject {s : State} {w : Word} {why : Reject} (h : Fetches s w)
    (hd : decodeWord w = .reject why) : fetchInstr s = .trap .ine := by
  obtain ⟨bytes, hbytes, hdecode⟩ := fetchBytes_of_fetches h
  exact bind_trap.2 (.inr ⟨bytes, hbytes, by rw [hdecode, hd]⟩)

/-! The statements. -/

/-- Settles O4: by `readsBack_decodeWord` a word that decodes to an instruction is the word of a
well-formed one, so this word is rejected, and its rejection is the INE trap of the fetch. -/
theorem undefinedWordRaisesIne : Obligations.UndefinedWordRaisesIne := by
  intro s w q hfetches hnone
  cases hd : decodeWord w with
  | instr i =>
    obtain ⟨hword, hwf⟩ := readsBack_decodeWord w i hd
    exact absurd hword (hnone i hwf)
  | reject why => exact stepTraps_of_fetchInstr q (fetchInstr_of_fetches_reject hfetches hd)

/-- A translation of the pc that traps is the trap of the step. -/
theorem stepTraps_of_translate {s : State} {x : Trap} (q : Quiet s) (ha : s.pc.toNat % 4 = 0)
    (h : translate .fetch s.pc s = .trap x) :
    StepTraps x.ecode.toNat x.esubcode.toNat x.badAddress x.pageAddress s :=
  stepTraps_of_fetchInstr q (fetchInstr_of_fetchBytes_trap (fetchBytes_translate_trap ha h))

/-- Settles O46: the alignment of the pc is checked first; then the statement's order is that of the
translation, upper half, search of the TLB, V and PLV of the page. -/
theorem fetchTraps : Obligations.FetchTraps := by
  intro s q
  refine ⟨fun hmis => ?misaligned, fun ha hm hw => ⟨fun hu => ?upperHalf, fun hu => ?lowerHalf⟩⟩
  case misaligned =>
    exact stepTraps_of_fetchInstr q (fetchInstr_of_fetchBytes_trap (fetchBytes_misaligned hmis))
  case upperHalf => exact stepTraps_of_translate q ha (translate_upperHalf .fetch hm hw hu)
  case lowerHalf =>
    have htlb := translate_tlb .fetch hm hw hu
    refine ⟨fun hnone => ?refill, fun j e honly => ⟨fun hv => ?invalid, fun hv hp => ?privilege⟩⟩
    case refill =>
      exact stepTraps_of_translate q ha (htlb.trans (tlbTranslate_of_noneMatches .fetch hnone))
    case invalid =>
      exact stepTraps_of_translate q ha
        ((htlb.trans (tlbTranslate_of_onlyMatch .fetch honly)).trans (pageCheck_invalid .fetch hv))
    case privilege =>
      exact stepTraps_of_translate q ha
        ((htlb.trans (tlbTranslate_of_onlyMatch .fetch honly)).trans
          (pageCheck_privilege .fetch hv hp))

/-- INVTLB checks its op before the level (`45_privileged.md` R350). -/
theorem exec_invtlb_of_op_le {op : BitVec 5} (h : op.toNat ≤ 6) (rj rk : Reg) (s : State) :
    exec (.invtlb op rj rk) s =
      privileged s
        (.done { s with
          tlb := invalidate op ((s.reg rj).extractLsb' 0 10) (s.reg rk) s.tlb }.advance) :=
  if_neg (Nat.not_lt.2 h)

/-- Settles O26: each of them is `privileged` with a body of its own, INVTLB for the ops that are
instructions. -/
theorem privilegedIpe : Obligations.PrivilegedIpe := by
  intro s a b csr si12 hint hp
  have hipe {i : Instr} {body : Attempt State} (h : exec i s = privileged s body) :
      Traps i 0xE 0 none none s := checksPrivilege_of_exec_privileged h hp
  exact ⟨⟨hipe rfl, hipe rfl, hipe rfl, hipe rfl, hipe rfl, hipe rfl, hipe rfl, hipe rfl, hipe rfl,
    hipe rfl⟩, fun op hop => hipe (exec_invtlb_of_op_le hop a b s)⟩

/-- Settles O48: in a quiet state by `quiet_step`; in general `boundary_eq_ready` gives the state that
the instruction is fetched from and runs on. -/
theorem stepRunsDecoded : Obligations.StepRunsDecoded := by
  refine ⟨fun s w i q hfetches hd => ?quiet, fun s e w i hr he hwake hint hfetches hd => ?general⟩
  case quiet => rw [quiet_step q, fetchInstr_of_fetches hfetches hd]
  case general =>
    exact step_of_boundary_ready (boundary_eq_ready hr he hwake hint)
      (fetchInstr_of_fetches hfetches hd)

end Sys2Proof.Machine
end

section
/-! PROOFS. Reset (`70_reset_and_hazards.md` R461): the state that asserting it leaves has the values
the rule states whatever state it meets, and the state right after reset is one that asserting leaves. -/

namespace Sys2Proof.Machine

/-! What asserting reset leaves. -/

/-- PLV0, interrupts off, direct mode. -/
theorem csrRead_crmd_assertReset (s : State) : csrRead 0x0#14 (assertReset s) = 0x00000008#32 :=
  calc csrRead 0x0#14 (assertReset s)
    _ = (Csrs.reset s.params.coreId).crmd.toWord := csrRead_csrNumber .crmd _
    _ = 0x00000008#32 := by simp [Csrs.reset, Crmd.toWord, flagBit]

/-- No source is locally enabled. -/
theorem csrRead_ecfg_assertReset (s : State) : csrRead 0x4#14 (assertReset s) = 0#32 :=
  calc csrRead 0x4#14 (assertReset s)
    _ = (Csrs.reset s.params.coreId).ecfg.toWord := csrRead_csrNumber .ecfg _
    _ = 0#32 := by simp [Csrs.reset, Ecfg.toWord, Ecfg.lie]

/-- TID takes CORE_ID, which is what CPUID reads as. -/
theorem csrRead_tid_assertReset (s : State) :
    csrRead 0x40#14 (assertReset s) = csrRead 0x20#14 (assertReset s) :=
  calc csrRead 0x40#14 (assertReset s)
    _ = s.params.coreId.setWidth 32 := csrRead_tid _
    _ = 0#23 ++ s.params.coreId := BitVec.setWidth_eq_append (by decide)
    _ = csrRead 0x20#14 (assertReset s) := (csrRead_csrNumber .cpuid _).symm

/-- The fields that are not read through a CSR number are constants of `assertReset`: the memory, the
lines and the model's own fields, which it keeps, are none of those R461 speaks of. -/
theorem resetValues_assertReset (s : State) : ResetValues (assertReset s) where
  zero := reg_zero _
  pc := rfl
  crmd := csrRead_crmd_assertReset s
  euen := csrRead_csrNumber .euen _
  lie := csrRead_ecfg_assertReset s
  swi := rfl
  ti := rfl
  en := rfl
  timerRunning := rfl
  klo := rfl
  llbit := rfl
  dmw0 := ⟨rfl, rfl⟩
  dmw1 := ⟨rfl, rfl⟩
  tid := csrRead_tid_assertReset s
  stableCounter := rfl
  idleWait := rfl

/-! Where such a state comes from. -/

/-- The state right after reset is itself one that asserting reset leaves. -/
theorem assertReset_reset : assertReset State.reset = State.reset := by
  simp [assertReset, State.reset]

/-- A step with reset asserted is nothing else, whatever instruction or interrupt was next. -/
theorem step_of_resetAsserted {s : State} (h : resetAsserted s = true) :
    step s = .next (assertReset (environment s)) := by
  rw [step, boundary, if_pos h]

/-- Settles O59: both states are what asserting reset leaves. -/
theorem resetValuesHold : Obligations.ResetValuesHold := by
  refine ⟨?atReset, fun s h => ⟨assertReset (environment s), ?steps, ?values⟩⟩
  case atReset => exact assertReset_reset ▸ resetValues_assertReset State.reset
  case steps => exact step_of_resetAsserted h
  case values => exact resetValues_assertReset _

end Sys2Proof.Machine
end

section
/-! PROOFS. Encoding and decoding (`30_encoding.md` R140 to R171): the opcode and the fields of a word
of each format are the ones it was put together from, so the decoder's chain stops at the row of the
encoded instruction. -/

namespace Sys2Proof

/-! Parts of a word that is put together from four fields. -/

section
variable {m n p q : Nat} (a : BitVec m) (b : BitVec n) (c : BitVec p) (d : BitVec q)

theorem extractLsb'_append_high (start len : Nat) :
    (a ++ b).extractLsb' (n + start) len = a.extractLsb' start len := by
  rw [BitVec.extractLsb'_append_eq_of_le (Nat.le_add_right n start), Nat.add_sub_cancel_left]

theorem extractLsb'_append_append_middle : (a ++ b ++ c).extractLsb' p n = b :=
  (extractLsb'_append_high (a ++ b) c 0 n).trans BitVec.extractLsb'_append_eq_right

theorem extractLsb'_append_append_high (start len : Nat) :
    (a ++ b ++ c).extractLsb' (p + (n + start)) len = a.extractLsb' start len :=
  (extractLsb'_append_high (a ++ b) c (n + start) len).trans (extractLsb'_append_high a b start len)

theorem extractLsb'_append_append_append_second : (a ++ b ++ c ++ d).extractLsb' (q + p) n = b :=
  (extractLsb'_append_high (a ++ b ++ c) d p n).trans (extractLsb'_append_append_middle a b c)

theorem extractLsb'_append_append_append_high (start len : Nat) :
    (a ++ b ++ c ++ d).extractLsb' (q + (p + (n + start))) len = a.extractLsb' start len :=
  (extractLsb'_append_high (a ++ b ++ c) d _ len).trans (extractLsb'_append_append_high a b c start len)

end

/-! The opcode and the fields of a word, by its format. The decoder looks at shorter opcodes first;
they are the upper bits of the format's own. -/

theorem fields_encode3R (op : BitVec 17) (rk rj rd : BitVec 5) :
    (opcode6 (encode3R op rk rj rd) = op.extractLsb' 11 6 ∧
      opcode8 (encode3R op rk rj rd) = op.extractLsb' 9 8 ∧
      opcode10 (encode3R op rk rj rd) = op.extractLsb' 7 10 ∧
      opcode17 (encode3R op rk rj rd) = op) ∧
    fieldRk (encode3R op rk rj rd) = rk ∧ fieldRj (encode3R op rk rj rd) = rj ∧
      fieldRd (encode3R op rk rj rd) = rd :=
  have high (start len : Nat) := extractLsb'_append_append_append_high op rk rj rd start len
  ⟨⟨high 11 6, high 9 8, high 7 10, (high 0 17).trans BitVec.extractLsb'_eq_self⟩,
    extractLsb'_append_append_append_second op rk rj rd,
    extractLsb'_append_append_middle (op ++ rk) rj rd, BitVec.extractLsb'_append_eq_right⟩

theorem fields_encode2RI12 (op : BitVec 10) (imm : BitVec 12) (rj rd : BitVec 5) :
    (opcode6 (encode2RI12 op imm rj rd) = op.extractLsb' 4 6 ∧
      opcode8 (encode2RI12 op imm rj rd) = op.extractLsb' 2 8 ∧
      opcode10 (encode2RI12 op imm rj rd) = op) ∧
    fieldI12 (encode2RI12 op imm rj rd) = imm ∧ fieldRj (encode2RI12 op imm rj rd) = rj ∧
      fieldRd (encode2RI12 op imm rj rd) = rd :=
  have high (start len : Nat) := extractLsb'_append_append_append_high op imm rj rd start len
  ⟨⟨high 4 6, high 2 8, (high 0 10).trans BitVec.extractLsb'_eq_self⟩,
    extractLsb'_append_append_append_second op imm rj rd,
    extractLsb'_append_append_middle (op ++ imm) rj rd, BitVec.extractLsb'_append_eq_right⟩

theorem fields_encode2RI14 (op : BitVec 8) (imm : BitVec 14) (rj rd : BitVec 5) :
    (opcode6 (encode2RI14 op imm rj rd) = op.extractLsb' 2 6 ∧
      opcode8 (encode2RI14 op imm rj rd) = op) ∧
    fieldI14 (encode2RI14 op imm rj rd) = imm ∧ fieldRj (encode2RI14 op imm rj rd) = rj ∧
      fieldRd (encode2RI14 op imm rj rd) = rd :=
  have high (start len : Nat) := extractLsb'_append_append_append_high op imm rj rd start len
  ⟨⟨high 2 6, (high 0 8).trans BitVec.extractLsb'_eq_self⟩,
    extractLsb'_append_append_append_second op imm rj rd,
    extractLsb'_append_append_middle (op ++ imm) rj rd, BitVec.extractLsb'_append_eq_right⟩

theorem fields_encode2RI16 (op : BitVec 6) (imm : BitVec 16) (rj rd : BitVec 5) :
    opcode6 (encode2RI16 op imm rj rd) = op ∧ fieldI16 (encode2RI16 op imm rj rd) = imm ∧
      fieldRj (encode2RI16 op imm rj rd) = rj ∧ fieldRd (encode2RI16 op imm rj rd) = rd :=
  ⟨(extractLsb'_append_append_append_high op imm rj rd 0 6).trans BitVec.extractLsb'_eq_self,
    extractLsb'_append_append_append_second op imm rj rd,
    Machine.fieldRj_encode2RI16 op imm rj rd, Machine.fieldRd_encode2RI16 op imm rj rd⟩

theorem fields_encode1RI20 (op : BitVec 7) (imm : BitVec 20) (rd : BitVec 5) :
    (opcode6 (encode1RI20 op imm rd) = op.extractLsb' 1 6 ∧ opcode7 (encode1RI20 op imm rd) = op) ∧
    fieldI20 (encode1RI20 op imm rd) = imm ∧ fieldRd (encode1RI20 op imm rd) = rd :=
  have high (start len : Nat) := extractLsb'_append_append_high op imm rd start len
  ⟨⟨high 1 6, (high 0 7).trans BitVec.extractLsb'_eq_self⟩,
    extractLsb'_append_append_middle op imm rd, BitVec.extractLsb'_append_eq_right⟩

theorem fields_encodeI26 (op : BitVec 6) (imm : BitVec 26) :
    opcode6 (encodeI26 op imm) = op ∧ fieldI26 (encodeI26 op imm) = imm :=
  ⟨(extractLsb'_append_append_high op _ _ 0 6).trans BitVec.extractLsb'_eq_self,
    Machine.fieldI26_encodeI26 op imm⟩

theorem fields_encodeI15 (op : BitVec 17) (imm : BitVec 15) :
    (opcode6 (encodeI15 op imm) = op.extractLsb' 11 6 ∧
      opcode8 (encodeI15 op imm) = op.extractLsb' 9 8 ∧
      opcode10 (encodeI15 op imm) = op.extractLsb' 7 10 ∧ opcode17 (encodeI15 op imm) = op) ∧
    fieldI15 (encodeI15 op imm) = imm :=
  have high (start len : Nat) := extractLsb'_append_high op imm start len
  ⟨⟨high 11 6, high 9 8, high 7 10, (high 0 17).trans BitVec.extractLsb'_eq_self⟩,
    BitVec.extractLsb'_append_eq_right⟩

theorem fields_encode2R (op : BitVec 22) (rj rd : BitVec 5) :
    (opcode6 (encode2R op rj rd) = op.extractLsb' 16 6 ∧
      opcode10 (encode2R op rj rd) = op.extractLsb' 12 10 ∧
      opcode17 (encode2R op rj rd) = op.extractLsb' 5 17 ∧ opcode22 (encode2R op rj rd) = op) ∧
    fieldRj (encode2R op rj rd) = rj ∧ fieldRd (encode2R op rj rd) = rd :=
  have high (start len : Nat) := extractLsb'_append_append_high op rj rd start len
  ⟨⟨high 16 6, high 12 10, high 5 17, (high 0 22).trans BitVec.extractLsb'_eq_self⟩,
    extractLsb'_append_append_middle op rj rd, BitVec.extractLsb'_append_eq_right⟩

/-! The part of the decoder that a word's opcode leads to. -/

section
variable {w : Word}

theorem decodeWord_major00 (h : opcode6 w = 0x00#6) : decodeWord w = decodeMajor00 w := if_pos h

theorem decodeWord_major01 (h : opcode6 w = 0x01#6) : decodeWord w = decodeMajor01 w := by
  simp [decodeWord, h]

theorem decodeWord_major0A (h : opcode6 w = 0x0A#6) : decodeWord w = decodeMajor0A w := by
  simp [decodeWord, h]

theorem decodeWord_register (h6 : opcode6 w = 0x00#6) (h10 : opcode10 w = 0x000#10) :
    decodeWord w = decodeRegister w :=
  (decodeWord_major00 h6).trans (if_pos h10)

theorem decodeWord_shiftImmediate (h6 : opcode6 w = 0x00#6) (h10 : opcode10 w = 0x001#10) :
    decodeWord w = decodeShiftImmediate w := by
  rw [decodeWord_major00 h6]
  simp [decodeMajor00, h10]

theorem decodeWord_privileged (h6 : opcode6 w = 0x01#6) (h8 : opcode8 w = 0x06#8)
    (h10 : opcode10 w = 0x019#10) : decodeWord w = decodePrivileged w := by
  rw [decodeWord_major01 h6]
  simp [decodeMajor01, h8, h10]

end

theorem decodePrivileged_invtlb {w : Word} (h : opcode17 w = 0x00C93#17)
    (hop : (fieldRd w).toNat ≤ 6) :
    decodePrivileged w = .instr (.invtlb (fieldRd w) (fieldRj w) (fieldRk w)) := by
  rw [decodePrivileged, if_neg (by simp [h]), if_pos h]
  exact if_pos hop

/-- The row of each well-formed instruction is the first that its word meets. -/
theorem decodeWord_encode (i : Instr) (hwf : i.wf = true) : decodeWord (encode i) = .instr i := by
  cases i
  case addW | subW | slt | sltu | nor | and | or | xor | orn | andn | sllW | srlW | sraW | mulW |
      mulhW | mulhWu | divW | modW | divWu | modWu =>
    rw [decodeWord_register] <;> simp [encode, decodeRegister, fields_encode3R]
  case slliW | srliW | sraiW =>
    rw [decodeWord_shiftImmediate] <;> simp [encode, decodeShiftImmediate, fields_encode3R]
  case slti | sltui | addiW | andi | ori | xori =>
    rw [decodeWord_major00] <;> simp [encode, decodeMajor00, fields_encode2RI12]
  case ldB | ldH | ldW | stB | stH | stW | ldBu | ldHu | preld =>
    rw [decodeWord_major0A] <;> simp [encode, decodeMajor0A, fields_encode2RI12]
  case cacop => rw [decodeWord_major01] <;> simp [encode, decodeMajor01, fields_encode2RI12]
  case lu12iW | pcaddu12i => simp [encode, decodeWord, fields_encode1RI20]
  case llW | scW => simp [encode, decodeWord, fields_encode2RI14]
  case jirl | beq | bne | blt | bge | bltu | bgeu => simp [encode, decodeWord, fields_encode2RI16]
  case b | bl => simp [encode, decodeWord, fields_encodeI26]
  case dbar | ibar => simp [encode, decodeWord, fields_encodeI15]
  case brk | syscall => rw [decodeWord_register] <;> simp [encode, decodeRegister, fields_encodeI15]
  case rdcntvlW | rdcntvhW =>
    rw [decodeWord_register] <;> simp [encode, decodeRegister, fields_encode2R]
  case rdcntid rj =>
    have hrj : rj ≠ 0#5 := by simpa [Instr.wf] using hwf
    rw [decodeWord_register] <;> simp [encode, decodeRegister, fields_encode2R, hrj]
  case csrrd | csrwr => rw [decodeWord_major01] <;> simp [encode, decodeMajor01, fields_encode2RI14]
  case csrxchg rd rj csr =>
    have hrj : rj ≠ 0#5 ∧ rj ≠ 1#5 := by simpa [Instr.wf] using hwf
    rw [decodeWord_major01] <;> simp [encode, decodeMajor01, fields_encode2RI14, hrj]
  case tlbsrch | tlbrd | tlbwr | tlbfill | ertn => decide
  case invtlb op rj rk =>
    have hop : op.toNat ≤ 6 := by simpa [Instr.wf] using hwf
    rw [decodeWord_privileged, decodePrivileged_invtlb] <;> simp [encode, fields_encode3R, hop]
  case idle => rw [decodeWord_privileged] <;> simp [encode, decodePrivileged, fields_encodeI15]

/-- The four bytes of a word are decoded as that word (`20_memory.md` R83). -/
theorem decodeBytes_wordBytes (w : Word) : decodeBytes (wordBytes w) = decodeWord w := by
  simp only [wordBytes, decodeBytes, BitVec.extractLsb'_append_extractLsb'_eq_extractLsb',
    BitVec.extractLsb'_eq_self]

/-- Settles O1: the bytes are those of the word, and the word's row is the instruction's. -/
theorem decodeEncodeAgree : Obligations.DecodeEncodeAgree := by
  intro i hwf
  rw [decodeBytes_wordBytes, decodeWord_encode i hwf]

/-- Settles O2: the fields of a word, put back in their places, are the word again. -/
theorem encodeDecodeAgree : Obligations.EncodeDecodeAgree := readsBack_decodeWord

/-- Settles O3: sixteen words, each evaluated. -/
theorem sampleWordsDecode : Obligations.SampleWordsDecode := by
  unfold Obligations.SampleWordsDecode
  decide

end Sys2Proof
end

section
/-! PROOFS. What a step changes at all: for each part of the state the instructions that write it
(`43_load_store.md` R297, `20_memory.md` R106, R107, `60_exceptions.md` R446), read off `Effect`, and
then what the boundary before the instruction does to that part. -/

namespace Sys2Proof.Machine

/-! What an instruction changes. -/

section
variable {i : Instr} {s t : State}

/-- No instruction touches the counter, the lines, the schedule or the parameters. -/
theorem Effect.outside (h : Effect i s t) :
    t.stableCounter = s.stableCounter ∧ t.hwi = s.hwi ∧ t.ipi = s.ipi ∧ t.inputs = s.inputs ∧
      t.params = s.params := by
  cases h with
  | csr rd n mask =>
    obtain ⟨-, -, -, hcounter, -, hhwi, hipi, -, hinputs, -, hparams⟩ :=
      csrWrite_frame n (s.reg rd) mask s
    exact ⟨hcounter, hhwi, hipi, hinputs, hparams⟩
  | _ => exact ⟨rfl, rfl, rfl, rfl, rfl⟩

/-- An instruction keeps the memory, or stores the bytes of its own access. -/
theorem Effect.mem (h : Effect i s t) :
    t.mem = s.mem ∨
      ∃ va pa bytes, dataAccessOf i s = some (.store, bytes.length, va) ∧
        access .store bytes.length va s = .done pa ∧ t.mem = (s.storeBytes pa bytes).mem := by
  cases h with
  | stores va pa bytes haccess hdone => exact .inr ⟨va, pa, bytes, haccess, hdone, rfl⟩
  | storeConditional rd rj si14 pa _ haccess hdone =>
    exact .inr ⟨_, pa, wordBytes (s.reg rd), haccess, hdone, rfl⟩
  | csr rd n mask =>
    obtain ⟨-, -, -, -, -, -, -, hmem, -⟩ := csrWrite_frame n (s.reg rd) mask s
    exact .inl hmem
  | _ => exact .inl rfl

/-- An instruction keeps the TLB, or is one of the three that write it, at PLV0. -/
theorem Effect.tlb (h : Effect i s t) :
    t.tlb = s.tlb ∨
      (s.csr.crmd.plv = 0#2 ∧ (i = .tlbwr ∨ i = .tlbfill ∨ ∃ op rj rk, i = .invtlb op rj rk)) := by
  cases h with
  | writeEntry _ _ hkernel his => exact .inr ⟨hkernel, his.imp_right .inl⟩
  | invalidates op rj rk _ _ hkernel his => exact .inr ⟨hkernel, .inr (.inr ⟨op, rj, rk, his⟩)⟩
  | csr rd n mask =>
    obtain ⟨-, -, htlb, -⟩ := csrWrite_frame n (s.reg rd) mask s
    exact .inl htlb
  | _ => exact .inl rfl

/-- An instruction below PLV0 keeps every CSR, or traps. -/
theorem Effect.csr_of_user (h : Effect i s t) (hp : s.csr.crmd.plv ≠ 0#2) :
    t.csr = s.csr ∨ ∃ x, t = trapEntry x s.pc s := by
  cases h with
  | trap x => exact .inr ⟨x, rfl⟩
  | csr _ _ _ hkernel | search _ hkernel | readEntry _ hkernel | returns hkernel =>
    exact absurd hkernel hp
  | _ => exact .inl rfl

/-- LLBCTL is the one CSR whose write touches LLbit, which it can only clear. -/
theorem csrWrite_llbit (n : BitVec 14) (value mask : Word) (s : State) :
    (csrWrite n value mask s).llbit = s.llbit ∨
      (n = 0x60#14 ∧ (csrWrite n value mask s).llbit = (s.llbit && !(value &&& mask).getLsbD 1)) := by
  cases hc : csrNamed n with
  | none => exact .inl (by rw [csrWrite, hc])
  | some c =>
    obtain rfl := csrNumber_of_csrNamed hc
    rw [csrWrite_csrNumber]
    cases c with
    | llbctl => exact .inr ⟨rfl, rfl⟩
    | tcfg => exact .inl (by rw [csrStore, loadTimer_eq])
    | _ => exact .inl rfl

/-- An instruction that changes LLbit is one that sets it, or one that clears it. -/
theorem Effect.llbit (h : Effect i s t) (hne : t.llbit ≠ s.llbit) :
    if t.llbit then ∃ rd rj si14, i = .llW rd rj si14
    else (∃ rd rj si14, i = .scW rd rj si14) ∨ i = .ertn ∨ (∃ rd, i = .csrwr rd 0x60#14) ∨
      ∃ rd rj, i = .csrxchg rd rj 0x60#14 := by
  cases h with
  | loadLinked rd rj si14 _ his => exact (if_pos rfl).mpr ⟨rd, rj, si14, his⟩
  | storeConditional rd rj si14 _ his =>
    exact (if_neg Bool.false_ne_true).mpr (.inl ⟨rd, rj, si14, his⟩)
  | returns _ his =>
    have hclear : (trapReturn s).llbit = false := by
      rw [trapReturn_llbit] at hne ⊢
      cases hl : s.llbit <;> simp_all
    rw [hclear]
    exact (if_neg Bool.false_ne_true).mpr (.inr (.inl his))
  | csr rd n mask _ his =>
    obtain hkeeps | ⟨rfl, hand⟩ := csrWrite_llbit n (s.reg rd) mask s
    · exact absurd hkeeps hne
    · have hclear : (csrWrite 0x60#14 (s.reg rd) mask s).llbit = false := by
        rw [writeNext_llbit] at hne
        rw [hand] at hne ⊢
        cases hl : s.llbit <;> simp_all
      rw [writeNext_llbit, hclear]
      refine (if_neg Bool.false_ne_true).mpr (.inr (.inr ?_))
      exact his.imp (fun h => ⟨rd, h⟩) fun ⟨rj, h⟩ => ⟨rd, rj, h⟩
  | _ => exact absurd rfl hne

end

/-! What a step does when reset is not asserted. -/

/-- The core goes on waiting; or, awake in the state that the environment leaves, it takes a trap or
runs an instruction. -/
theorem step_next_of_not_reset {s t : State} (h : step s = .next t) (hr : resetAsserted s = false) :
    t = environment s ∨
      ∃ e, e = { environment s with idleWait := false } ∧
        ((∃ x, t = trapEntry x e.pc e) ∨
          ∃ i, boundary s = .ready e ∧ fetchInstr e = .done i ∧ Effect i e t) := by
  obtain hb | ⟨e, i, hb, hf, hexec⟩ | ⟨e, x, hb, -, ht⟩ := step_next h
  · obtain ⟨hreset, -⟩ | ⟨-, ht⟩ | ⟨-, ht⟩ := boundary_settled hb
    · exact absurd hreset (by simp [hr])
    · exact .inl ht
    · exact .inr ⟨_, rfl, .inl ⟨.int, ht⟩⟩
  · exact .inr ⟨e, (boundary_ready hb).2, .inr ⟨i, hb, hf, exec_next hexec⟩⟩
  · exact .inr ⟨e, (boundary_ready hb).2, .inl ⟨x, ht⟩⟩

/-! What the environment does. -/

theorem environment_nil {s : State} (h : s.inputs = []) : environment s = s := by
  rw [environment, h]

theorem environment_cons {s : State} {i : EnvInput} {rest : List EnvInput}
    (h : s.inputs = i :: rest) :
    (environment s).stableCounter = s.stableCounter + BitVec.ofNat 64 i.ticks ∧
      (environment s).hwi = i.hwi ∧ (environment s).ipi = i.ipi ∧ (environment s).inputs = rest := by
  obtain ⟨-, -, -, -, -, -, -, -, -, -, hcounter, -⟩ := ticks_frame i.ticks s
  rw [environment, h]
  exact ⟨hcounter, rfl, rfl, rfl⟩

/-- The ticks of a boundary touch no field of CRMD. -/
theorem environment_crmd (s : State) : (environment s).csr.crmd = s.csr.crmd := by
  obtain ⟨-, -, -, -, -, -, -, b, hcsr⟩ := environment_frame s
  rw [hcsr]

theorem environment_tlb (s : State) : (environment s).tlb = s.tlb := by
  obtain ⟨-, -, -, htlb, -⟩ := environment_frame s
  exact htlb

theorem environment_llbit (s : State) : (environment s).llbit = s.llbit := by
  obtain ⟨-, -, hllbit, -⟩ := environment_frame s
  exact hllbit

/-! The statements. -/

/-- Settles O55: of what `Effect` allows, only the traps change a CSR or the TLB below PLV0. -/
theorem userModeConfined : Obligations.UserModeConfined := by
  intro s t h hr hp
  obtain rfl | ⟨e, rfl, ⟨x, rfl⟩ | ⟨i, -, -, heffect⟩⟩ := step_next_of_not_reset h hr
  case inl => exact ⟨environment_tlb s, .inl ⟨rfl, environment_crmd s⟩⟩
  case inr.inl => exact ⟨environment_tlb s, .inr ⟨_, _, _, _, enters_trapEntry x _⟩⟩
  case inr.inr =>
    have hep : (environment s).csr.crmd.plv ≠ 0#2 := (environment_crmd s).symm ▸ hp
    have htlb : t.tlb = (environment s).tlb := heffect.tlb.resolve_right fun hwrites => hep hwrites.1
    refine ⟨htlb.trans (environment_tlb s), ?_⟩
    obtain hcsr | ⟨x, rfl⟩ := heffect.csr_of_user hep
    · exact .inl ⟨hcsr, (congrArg Csrs.crmd hcsr).trans (environment_crmd s)⟩
    · exact .inr ⟨_, _, _, _, enters_trapEntry x _⟩

/-- Settles O53: the environment and a trap keep the TLB, so the instruction is one that writes it. -/
theorem onlyTlbInstructionsWriteTlb : Obligations.OnlyTlbInstructionsWriteTlb := by
  intro s t h hr hne
  obtain rfl | ⟨e, rfl, ⟨x, rfl⟩ | ⟨i, hb, hf, heffect⟩⟩ := step_next_of_not_reset h hr
  case inl | inr.inl => exact absurd (environment_tlb s) hne
  case inr.inr =>
    obtain htlb | ⟨hkernel, his⟩ := heffect.tlb
    · exact absurd (htlb.trans (environment_tlb s)) hne
    · exact ⟨_, i, hb, hf, hkernel, his⟩

/-- Settles O54: reset clears LLbit; otherwise the environment and a trap keep it, so the instruction
is one that sets or clears it. -/
theorem llbitChanges : Obligations.LLbitChanges := by
  intro s t h hne
  cases hr : resetAsserted s with
  | true =>
    rw [step_of_resetAsserted hr] at h
    cases h
    exact .inl ⟨rfl, rfl⟩
  | false =>
    obtain rfl | ⟨e, rfl, ⟨x, rfl⟩ | ⟨i, hb, hf, heffect⟩⟩ := step_next_of_not_reset h hr
    case inl | inr.inl => exact absurd (environment_llbit s) hne
    case inr.inr =>
      exact .inr ⟨_, i, hb, hf, heffect.llbit ((environment_llbit s).symm ▸ hne)⟩

/-- A step leaves the counter, the lines and the schedule as the environment does. -/
theorem step_outside {s t : State} (h : step s = .next t) (hr : resetAsserted s = false) :
    t.stableCounter = (environment s).stableCounter ∧ t.hwi = (environment s).hwi ∧
      t.ipi = (environment s).ipi ∧ t.inputs = (environment s).inputs := by
  obtain rfl | ⟨e, rfl, ⟨x, rfl⟩ | ⟨i, -, -, heffect⟩⟩ := step_next_of_not_reset h hr
  case inl | inr.inl => exact ⟨rfl, rfl, rfl, rfl⟩
  case inr.inr =>
    obtain ⟨hcounter, hhwi, hipi, hinputs, -⟩ := heffect.outside
    exact ⟨hcounter, hhwi, hipi, hinputs⟩

/-- Settles O51: `step_outside`, with what the environment makes of its entry. -/
theorem counterAdvances : Obligations.CounterAdvances := by
  intro s t h hr
  obtain ⟨hcounter, hhwi, hipi, hinputs⟩ := step_outside h hr
  refine ⟨fun i rest hcons => ?entry, fun hnil => ?none⟩
  case entry =>
    obtain ⟨hcounter', hhwi', hipi', hinputs'⟩ := environment_cons hcons
    refine ⟨?_, hhwi.trans hhwi', hipi.trans hipi', hinputs.trans hinputs'⟩
    rw [hcounter, hcounter', BitVec.toNat_add, BitVec.toNat_ofNat, Nat.add_mod_mod]
  case none =>
    rw [environment_nil hnil] at hcounter hhwi hipi hinputs
    exact ⟨hcounter, hhwi, hipi, hinputs.trans hnil⟩

/-- Settles O52: a byte that differs lies inside the bytes of the access that `Effect.mem` names, which
`access_done` says is aligned and translated. -/
theorem onlyStoresWriteMemory : Obligations.OnlyStoresWriteMemory := by
  intro i s t c h hne
  obtain hmem | ⟨va, pa, bytes, haccess, hdone, hmem⟩ := (exec_next h).mem
  · exact absurd (congrArg (Memory.readByte · c) hmem) hne
  · obtain ⟨haligned, r, htranslate, -, rfl⟩ := access_done.1 hdone
    have hinside : ∃ k, k < bytes.length ∧ c = r.pa + BitVec.ofNat 32 k := by
      by_contra hout
      push Not at hout
      exact hne ((congrArg (Memory.readByte · c) hmem).trans (byteAt_storeBytes_outside hout))
    obtain ⟨k, hk, hc⟩ := hinside
    exact ⟨bytes.length, va, r, k, haccess, aligned_iff.1 haligned, htranslate, hk, hc⟩

end Sys2Proof.Machine
end

section
/-! PROOFS. The invariant of the machine holds at reset and every step keeps it: one lemma for each
thing that can happen, an instruction by its `Effect`, a trap, the ticks and lines of the environment,
and reset. -/

namespace Sys2Proof.Machine

/-! Widths. -/

/-- Keeping the low bits of a value is taking it modulo a power of two, also where that exceeds the
width. -/
theorem toNat_lowBits {w : Nat} (n : Nat) (v : BitVec w) : (lowBits n v).toNat = v.toNat % 2 ^ n := by
  refine Nat.eq_of_testBit_eq fun k => ?_
  by_cases hk : k < w
  · simp [lowBits, hk, Bool.and_comm]
  · simp [lowBits, hk, BitVec.testBit_toNat, BitVec.getLsbD_of_ge v k (by omega)]

theorem toNat_lowBits_lt {w : Nat} (n : Nat) (v : BitVec w) : (lowBits n v).toNat < 2 ^ n := by
  rw [toNat_lowBits]
  exact Nat.mod_lt _ (Nat.two_pow_pos n)

/-- `TLB_IDX_BITS` is the least number of bits that number the entries (`00_scope.md` R8). -/
theorem tlbIdxBits_le_iff {entries m : Nat} : tlbIdxBits entries ≤ m ↔ entries ≤ 2 ^ m := by
  unfold tlbIdxBits
  split
  · next h => exact iff_of_true (Nat.zero_le m) (h.trans Nat.one_le_two_pow)
  · next h =>
    rw [Nat.add_one_le_iff, Nat.log2_lt (by omega)]
    omega

theorem length_le_two_pow_tlbIdxBits (entries : Nat) : entries ≤ 2 ^ tlbIdxBits entries :=
  tlbIdxBits_le_iff.1 le_rfl

/-- The bounds of `TIMER_BITS` (`00_scope.md` R8). -/
theorem timerBits_of_params_wf {p : Params} (h : p.wf = true) :
    3 ≤ p.timerBits ∧ p.timerBits ≤ 32 := by
  simp only [Params.wf, Bool.and_eq_true, decide_eq_true_eq] at h
  exact h.1

/-- A value of the timer's counter, as TCFG.InitVal gives it, fits the counter. -/
theorem toNat_timerLoad_lt {p : Params} (hp : p.wf = true) {initVal : BitVec 30}
    (h : initVal.toNat < 2 ^ (p.timerBits - 2)) : (initVal ++ 0#2).toNat < 2 ^ p.timerBits := by
  obtain ⟨hbits, -⟩ := timerBits_of_params_wf hp
  calc (initVal ++ 0#2).toNat
    _ = 2 ^ 2 * initVal.toNat := toNat_append_zeros initVal 2
    _ < 2 ^ 2 * 2 ^ (p.timerBits - 2) := by omega
    _ = 2 ^ p.timerBits := by rw [← Nat.pow_add]; congr 1; omega

/-! What keeps the parts of the invariant. -/

/-- A write to a register never touches entry 0 of the register file. -/
theorem setReg_gpr_zero (s : State) (rd : Reg) (v : Word) : (s.setReg rd v).gpr[0] = s.gpr[0] := by
  by_cases h : rd = 0#5
  · simp [State.setReg, h]
  · have hne : rd.toNat ≠ 0 := fun h0 => h (BitVec.eq_of_toNat_eq h0)
    simp [State.setReg, h, hne]

theorem readEntryCsrs_frame (clears : Bool) (e : TlbEntry) (c : Csrs) :
    (readEntryCsrs clears e c).tlbidx.index = c.tlbidx.index ∧
      (readEntryCsrs clears e c).tcfg = c.tcfg := by
  unfold readEntryCsrs
  split
  · exact ⟨rfl, rfl⟩
  · split <;> exact ⟨rfl, rfl⟩

/-- The index that TLBSRCH finds numbers an entry; a miss keeps the old one. -/
theorem searchedIdx_index {asid : BitVec 10} {va : Word} {tlb : List TlbEntry} {old idx : TlbIdx}
    (h : searchedIdx (tlbSearch asid va tlb) old = .done idx) :
    idx.index = old.index ∨ idx.index.toNat < tlb.length := by
  cases hr : tlbSearch asid va tlb with
  | miss => rw [hr] at h; cases h; exact .inl rfl
  | several => rw [hr] at h; cases h
  | hit i e =>
    have hmem : (i, e) ∈ tlbHitsFrom asid va 0 tlb := by
      unfold tlbSearch at hr
      split at hr <;> simp_all
    obtain ⟨hi, -⟩ := mem_tlbHitsFrom_zero.1 hmem
    obtain ⟨hlt, -⟩ := List.getElem?_eq_some_iff.1 hi
    rw [hr] at h
    cases h
    exact .inr ((Nat.mod_le i _).trans_lt hlt)

theorem TlbEntry.wf_iff {p : Params} {e : TlbEntry} :
    e.wf p = true ↔ (e.e = true → legalPageSize p e.ps = true) := by
  cases h : e.e <;> simp [TlbEntry.wf, h]

/-- Of the CSRs that an instruction can write, TLBIDX and TCFG are the ones with bounded fields. -/
theorem Invariant.csrStore {s : State} (hs : Invariant s) (c : CsrName) (w ones : Word) :
    Invariant (csrStore c w ones s) := by
  cases c with
  | tlbidx => exact { hs with index := toNat_lowBits_lt _ _ }
  | tcfg =>
    have hinit : (Tcfg.ofWord s.params.timerBits w).initVal.toNat < 2 ^ (s.params.timerBits - 2) :=
      toNat_lowBits_lt _ _
    rw [Machine.csrStore, loadTimer_eq]
    refine { hs with initVal := hinit, timer := ?_ }
    show BitVec.toNat (if _ then _ else _) < 2 ^ s.params.timerBits
    split
    · exact toNat_timerLoad_lt hs.params hinit
    · exact hs.timer
  | _ => exact { hs with }

theorem Invariant.csrWrite {s : State} (hs : Invariant s) (n : BitVec 14) (value mask : Word) :
    Invariant (csrWrite n value mask s) := by
  unfold Machine.csrWrite
  split
  · exact hs.csrStore _ _ _
  · exact hs

theorem Invariant.writeNext {s : State} (hs : Invariant s) (rd : Reg) (v : Word) :
    Invariant (writeNext rd v s) :=
  { hs with zero := (setReg_gpr_zero s rd v).trans hs.zero }

theorem Invariant.trapEntry {s : State} (hs : Invariant s) (x : Trap) (pc : Word) :
    Invariant (trapEntry x pc s) := { hs with }

theorem Invariant.storeBytes {s : State} (hs : Invariant s) (pa : Word) (bytes : List Byte) :
    Invariant (s.storeBytes pa bytes) := { hs with memory := wf_writeBytes hs.memory pa bytes }

/-- Another TLB of the same size whose entries are well-formed. -/
theorem Invariant.setTlb {s : State} (hs : Invariant s) {tlb : List TlbEntry} (n : Nat)
    (hlen : tlb.length = s.tlb.length) (hentries : ∀ e ∈ tlb, e.wf s.params = true) :
    Invariant { s with tlb := tlb, draws := n } :=
  { hs with
    tlbSize := hlen.symm ▸ hs.tlbSize
    entries := hentries
    index := hlen.symm ▸ hs.index }

/-! The instructions. -/

theorem Invariant.effect {i : Instr} {s t : State} (hs : Invariant s) (h : Effect i s t) :
    Invariant t := by
  cases h with
  | trap x => exact hs.trapEntry x s.pc
  | computes rd v => exact hs.writeNext rd v
  | divides rd v | loadLinked _ _ _ v => exact { hs.writeNext _ v with }
  | links rd v => exact { hs.writeNext rd v with }
  | stores _ pa bytes => exact { hs.storeBytes pa bytes with }
  | storeConditional rd _ _ pa => exact { (hs.storeBytes pa _).writeNext rd 1#32 with }
  | csr rd n mask => exact (hs.csrWrite n _ mask).writeNext rd _
  | search idx _ _ hfound =>
    refine { hs with index := ?_ }
    obtain hold | hnew := searchedIdx_index hfound
    · exact hold ▸ hs.index
    · exact hnew.trans_le (length_le_two_pow_tlbIdxBits _)
  | readEntry e =>
    obtain ⟨hindex, htcfg⟩ := readEntryCsrs_frame s.params.tlbrdInvalidClears e s.csr
    exact { hs with index := hindex.symm ▸ hs.index, initVal := htcfg.symm ▸ hs.initVal }
  | writeEntry j n _ _ _ hlegal =>
    refine { hs.setTlb n List.length_set fun e he => ?_ with }
    obtain he | rfl := List.mem_or_eq_of_mem_set he
    · exact hs.entries e he
    · exact TlbEntry.wf_iff.2 hlegal
  | invalidates op _ _ asid va =>
    refine { hs.setTlb s.draws (length_invalidate op asid va s.tlb) fun e he => ?_ with }
    obtain ⟨u, hu, h | h⟩ := mem_invalidate he
    · exact h ▸ hs.entries u hu
    · exact h ▸ rfl
  | skip | jumps | returns | waits => exact { hs with }

/-! The boundary. -/

theorem Invariant.tick {s : State} (hs : Invariant s) : Invariant (tick s) := by
  unfold Machine.tick timerTick
  split
  · split
    · split
      · exact { hs with timer := toNat_timerLoad_lt hs.params hs.initVal }
      · exact { hs with timer := toNat_lowBits_lt _ _ }
    · next hne =>
      refine { hs with timer := lt_of_le_of_lt ?_ hs.timer }
      show (s.timerCnt - 1#32).toNat ≤ s.timerCnt.toNat
      have hne : s.timerCnt ≠ 0#32 := hne
      bv_omega
  · exact { hs with }

theorem Invariant.ticks {s : State} (hs : Invariant s) (n : Nat) : Invariant (ticks n s) := by
  induction n generalizing s with
  | zero => exact hs
  | succ n ih => exact ih hs.tick

theorem Invariant.environment {s : State} (hs : Invariant s) : Invariant (environment s) := by
  unfold Machine.environment
  split
  · exact hs
  · exact { hs.ticks _ with }

/-- Asserting reset makes the invariant of what it keeps: memory, the parameters, the TLB's size. -/
theorem invariant_assertReset {s : State} (hmem : Memory.wf s.mem) (hparams : s.params.wf = true)
    (hsize : 1 ≤ s.tlb.length ∧ s.tlb.length ≤ 65536) : Invariant (assertReset s) where
  memory := hmem
  zero := rfl
  params := hparams
  tlbSize := by simpa [assertReset] using hsize
  entries := by
    intro e he
    rw [List.eq_of_mem_replicate he]
    rfl
  index := Nat.two_pow_pos _
  initVal := Nat.two_pow_pos _
  timer := Nat.two_pow_pos _

/-- Settles O57: reset makes the invariant; the environment, a trap and an instruction keep it. -/
theorem invariantKept : Obligations.InvariantKept := by
  intro s t hs h
  have he : Invariant (environment s) := hs.environment
  cases hr : resetAsserted s with
  | true =>
    rw [step_of_resetAsserted hr] at h
    cases h
    exact invariant_assertReset he.memory he.params he.tlbSize
  | false =>
    obtain rfl | ⟨e, rfl, hcases⟩ := step_next_of_not_reset h hr
    · exact he
    · have hawake : Invariant { environment s with idleWait := false } := { he with }
      obtain ⟨x, rfl⟩ | ⟨i, -, -, heffect⟩ := hcases
      · exact hawake.trapEntry x _
      · exact hawake.effect heffect

/-- Settles O58: the reset state is one that asserting reset leaves. -/
theorem invariantAtReset : Obligations.InvariantAtReset := by
  unfold Obligations.InvariantAtReset
  rw [← assertReset_reset]
  exact invariant_assertReset ⟨List.Pairwise.nil, nofun⟩ (by decide) (by decide)

end Sys2Proof.Machine
end

section
/-! PROOFS. Addresses and translations (`43_load_store.md` R280, `20_memory.md` R100 to R105): the
address that an access forms, and what windows and pages make of one in mapped mode. -/

namespace Sys2Proof.Machine

/-! Addresses. -/

/-- Settles O17: both are a sum with a sign-extended operand; two zero bits below si14 multiply it
by 4. -/
theorem effectiveAddress : Obligations.EffectiveAddress := by
  intro s rj si12 si14
  refine ⟨toNat_add_sext32 (by decide) _ _, ?link⟩
  have hshift : (si14 ++ 0#2).toInt = 4 * si14.toInt := BitVec.toInt_append_zero
  rw [linkAddress, toNat_add_sext32 (by decide), hshift]

/-! Windows. -/

/-- A window keeps the low 29 bits and puts PSEG above them (`20_memory.md` R102). -/
theorem toNat_translated_pa (d : Dmw) (va : Word) :
    (d.translated va).pa.toNat = d.pseg.toNat * 2 ^ 29 + va.toNat % 2 ^ 29 := by
  rw [Dmw.translated, toNat_append_eq_add, BitVec.extractLsb'_toNat, Nat.shiftRight_zero]
  omega

theorem translate_of_windowLookup {kind : AccessKind} {va : Word} {s : State} {r : Translated}
    (hm : MappedMode s) (h : windowLookup s.csr va = some r) : translate kind va s = .done r := by
  obtain ⟨hda, hpg⟩ := hm
  rw [translate_mapped hda hpg, mappedTranslate, h]

/-- Settles O43: the lookup asks DMW1 first, so it counts where both windows map the address. -/
theorem windowAccess : Obligations.WindowAccess := by
  intro s kind va hm
  refine ⟨fun h1 => ?dmw1, fun h1 h0 => ?dmw0⟩
  case dmw1 =>
    have hlookup : windowLookup s.csr va = some (s.csr.dmw1.translated va) :=
      if_pos (maps_iff_inWindow.2 h1)
    exact ⟨_, translate_of_windowLookup hm hlookup, toNat_translated_pa _ va, rfl⟩
  case dmw0 =>
    have hlookup : windowLookup s.csr va = some (s.csr.dmw0.translated va) :=
      (if_neg (mt maps_iff_inWindow.1 h1)).trans (if_pos (maps_iff_inWindow.2 h0))
    exact ⟨_, translate_of_windowLookup hm hlookup, toNat_translated_pa _ va, rfl⟩

/-! Pages. -/

/-- The frame above the page size and the offset below it, as the bits of one number: neither part
reaches into the other (`20_memory.md` R105). -/
theorem toNat_frame_or_offset {ps : Nat} (hlow : 12 ≤ ps) (hhigh : ps ≤ 30) (ppn : BitVec 20)
    (va : Word) :
    (((ppn.setWidth 32 >>> (ps - 12)) <<< ps) ||| (va &&& BitVec.ofNat 32 (2 ^ ps - 1))).toNat =
      ppn.toNat / 2 ^ (ps - 12) * 2 ^ ps + va.toNat % 2 ^ ps := by
  have hps : 2 ^ ps ≤ 2 ^ 30 := Nat.pow_le_pow_right (by decide) hhigh
  have hframe : ppn.toNat / 2 ^ (ps - 12) * 2 ^ ps < 2 ^ 32 := by
    calc ppn.toNat / 2 ^ (ps - 12) * 2 ^ ps
      _ = ppn.toNat / 2 ^ (ps - 12) * 2 ^ (ps - 12) * 2 ^ 12 := by
        rw [Nat.mul_assoc, ← Nat.pow_add, Nat.sub_add_cancel hlow]
      _ ≤ ppn.toNat * 2 ^ 12 := Nat.mul_le_mul_right _ (Nat.div_mul_le_self _ _)
      _ < 2 ^ 32 := by omega
  have hmask : (BitVec.ofNat 32 (2 ^ ps - 1)).toNat = 2 ^ ps - 1 := by
    rw [BitVec.toNat_ofNat, Nat.mod_eq_of_lt (by omega)]
  rw [BitVec.toNat_or, BitVec.toNat_and, hmask, Nat.and_two_pow_sub_one_eq_mod,
    toNat_shiftLeft_word, toNat_ushiftRight_word, BitVec.toNat_setWidth_of_le (by decide),
    Nat.mod_eq_of_lt hframe, ← Nat.shiftLeft_eq,
    Nat.shiftLeft_add_eq_or_of_lt (Nat.mod_lt _ (Nat.two_pow_pos ps))]

theorem toNat_physical {e : TlbEntry} (hlow : 12 ≤ e.ps.toNat) (hhigh : e.ps.toNat ≤ 30) (va : Word) :
    (e.physical va).toNat =
      (selectedPage e va).ppn.toNat / 2 ^ (e.ps.toNat - 12) * 2 ^ e.ps.toNat +
        va.toNat % 2 ^ e.ps.toNat := by
  rw [TlbEntry.physical, page_eq_selectedPage, toNat_frame_or_offset hlow hhigh]

section
variable {kind : AccessKind} {va : Word} {plv : BitVec 2} {e : TlbEntry}

theorem pageCheck_modification (hv : (selectedPage e va).v = true)
    (hp : plv.toNat ≤ (selectedPage e va).plv.toNat) (hd : (selectedPage e va).d = false) :
    pageCheck .store va plv e = .trap (.pme va) := by
  rw [pageCheck, page_eq_selectedPage, if_neg (by simp [hv]),
    if_neg (by rwa [BitVec.lt_def, Nat.not_lt]), if_pos ⟨rfl, hd⟩]

theorem pageCheck_done (hv : (selectedPage e va).v = true)
    (hp : plv.toNat ≤ (selectedPage e va).plv.toNat)
    (hd : kind = .store → (selectedPage e va).d = true) :
    pageCheck kind va plv e = .done { pa := e.physical va, mat := (selectedPage e va).mat } := by
  have hclean : ¬ (kind = .store ∧ (selectedPage e va).d = false) := fun ⟨hstore, hfalse⟩ =>
    Bool.false_ne_true (hfalse.symm.trans (hd hstore))
  rw [pageCheck, page_eq_selectedPage, if_neg (by simp [hv]),
    if_neg (by rwa [BitVec.lt_def, Nat.not_lt]), if_neg hclean]

end

/-- Settles O44: the one entry found passes every check, so its physical address is the result. -/
theorem pageTranslation : Obligations.PageTranslation := by
  intro s kind va i e hm hw hu honly hv hp hd
  have ⟨_, ⟨_, _, hlow, hhigh, _⟩, _⟩ := honly
  refine ⟨⟨e.physical va, _⟩, ?_, toNat_physical hlow hhigh va, rfl⟩
  rw [translate_tlb kind hm hw hu, tlbTranslate_of_onlyMatch kind honly, pageCheck_done hv hp hd]

end Sys2Proof.Machine
end

section
/-! PROOFS. What a data access comes to for every instruction that makes one (`43_load_store.md` R280,
`20_memory.md` R86, R95): its exceptions in their order, and where it stops. -/

namespace Sys2Proof.Machine

/-! Every data access is one `access`. -/

/-- With LLbit 1, SC.W is one access whatever its address is: its own check of the alignment is the
one that the access begins with. -/
theorem exec_scW_of_llbit {s : State} (hl : s.llbit = true) (rd rj : Reg) (si14 : BitVec 14) :
    exec (.scW rd rj si14) s = (storeConditional rd (linkAddress rj si14 s) s).outcome s := by
  by_cases ha : (linkAddress rj si14 s).toNat % 4 = 0
  · exact exec_scW_linked hl ha
  · rw [exec_scW_misaligned ha, storeConditional, access_misaligned ha]
    rfl

theorem exec_of_dataAccessOf {i : Instr} {s : State} {kind : AccessKind} {n : Nat} {va : Word}
    (h : dataAccessOf i s = some (kind, n, va)) :
    ∃ f : Word → State, exec i s = ((access kind n va s).bind fun pa => .done (f pa)).outcome s := by
  cases i with
  | ldB | ldBu | ldH | ldHu | ldW | stB | stH | stW => cases h; exact ⟨_, rfl⟩
  | llW rd rj si14 => cases h; exact ⟨_, exec_llW_eq rd rj si14 s⟩
  | scW rd rj si14 =>
    cases hl : s.llbit with
    | true =>
      rw [dataAccessOf, if_pos hl] at h
      cases h
      exact ⟨_, exec_scW_of_llbit hl rd rj si14⟩
    | false =>
      rw [dataAccessOf, hl] at h
      cases h
  | _ => cases h

/-- A data access is a load or a store, never a fetch. -/
theorem kind_of_dataAccessOf {i : Instr} {s : State} {kind : AccessKind} {n : Nat} {va : Word}
    (h : dataAccessOf i s = some (kind, n, va)) : kind = .load ∨ kind = .store := by
  cases kind with
  | load => exact .inl rfl
  | store => exact .inr rfl
  | fetch => cases i <;> simp [dataAccessOf] at h

section
variable {i : Instr} {s : State} {kind : AccessKind} {n : Nat} {va : Word}

theorem traps_of_access {x : Trap} (h : dataAccessOf i s = some (kind, n, va))
    (hx : access kind n va s = .trap x) :
    Traps i x.ecode.toNat x.esubcode.toNat x.badAddress x.pageAddress s := by
  obtain ⟨f, hexec⟩ := exec_of_dataAccessOf h
  exact traps_of_access_trap hexec hx

theorem traps_of_translate {x : Trap} (h : dataAccessOf i s = some (kind, n, va))
    (ha : va.toNat % n = 0) (hx : translate kind va s = .trap x) :
    Traps i x.ecode.toNat x.esubcode.toNat x.badAddress x.pageAddress s :=
  traps_of_access h (access_translate_trap ha hx)

theorem traps_of_pageInvalid (h : dataAccessOf i s = some (kind, n, va)) (ha : va.toNat % n = 0)
    (hx : translate kind va s = .trap (pageInvalid kind va)) :
    Traps i (if kind = .store then 0x2 else 0x1) 0 (some va) (some va) s := by
  obtain rfl | rfl := kind_of_dataAccessOf h <;> exact traps_of_translate h ha hx

theorem traps_of_addressError (h : dataAccessOf i s = some (kind, n, va)) (ha : va.toNat % n = 0)
    (hx : translate kind va s = .trap (addressError kind va)) :
    Traps i 0x8 1 (some va) none s := by
  obtain rfl | rfl := kind_of_dataAccessOf h <;> exact traps_of_translate h ha hx

end

/-- Settles O45: alignment, then the order of the translation: upper half, search of the TLB, and V,
PLV and D of the page. -/
theorem dataTranslationTraps : Obligations.DataTranslationTraps := by
  intro i s kind n va h
  refine ⟨fun hmis => ?misaligned, fun ha hm hw => ⟨fun hu => ?upperHalf, fun hu => ?lowerHalf⟩⟩
  case misaligned => exact traps_of_access h (access_misaligned hmis kind s)
  case upperHalf => exact traps_of_addressError h ha (translate_upperHalf kind hm hw hu)
  case lowerHalf =>
    have htlb := translate_tlb kind hm hw hu
    refine ⟨fun hnone => ?refill, fun j e honly => ?found⟩
    case refill =>
      exact traps_of_translate h ha (htlb.trans (tlbTranslate_of_noneMatches kind hnone))
    case found =>
      have hcheck := htlb.trans (tlbTranslate_of_onlyMatch kind honly)
      refine ⟨fun hv => ?invalid, fun hv => ⟨fun hp => ?privilege, fun hp hstore hd => ?modification⟩⟩
      case invalid => exact traps_of_pageInvalid h ha (hcheck.trans (pageCheck_invalid kind hv))
      case privilege => exact traps_of_translate h ha (hcheck.trans (pageCheck_privilege kind hv hp))
      case modification =>
        subst hstore
        exact traps_of_translate h ha (hcheck.trans (pageCheck_modification hv hp hd))

/-! Where an access stops. -/

theorem translate_undefinedMode {s : State} (h : s.csr.crmd.da = s.csr.crmd.pg) (kind : AccessKind)
    (va : Word) : translate kind va s = .refuse .translationModeUndefined := by
  cases hda : s.csr.crmd.da <;> simp [translate, hda, ← h]

theorem translate_severalMatch {s : State} {va : Word} (kind : AccessKind) (hm : MappedMode s)
    (hw : NoWindow s va) (hu : MayUse s va) (h : SeveralMatch s s.csr.asid va) :
    translate kind va s = .refuse .tlbMultipleHit := by
  rw [translate_tlb kind hm hw hu, tlbTranslate, tlbSearch_of_severalMatch h]

/-- An aligned and translated access asks the platform. -/
theorem access_translated {kind : AccessKind} {n : Nat} {va : Word} {s : State} {r : Translated}
    (ha : va.toNat % n = 0) (h : translate kind va s = .done r) :
    access kind n va s = (checkBacked s.params r.pa n).bind fun _ => .done r.pa := by
  rw [access, if_pos (aligned_iff.2 ha), h]
  rfl

theorem fetchInstr_translate_refuse {s : State} {why : Refusal} (ha : s.pc.toNat % 4 = 0)
    (h : translate .fetch s.pc s = .refuse why) : fetchInstr s = .refuse why := by
  rw [fetchInstr, fetchBytes, if_pos (aligned_iff.2 ha), h]
  rfl

/-- A fetch whose bytes the platform does not serve comes to what the platform's check comes to. -/
theorem fetchBytes_translated {s : State} {r : Translated} (ha : s.pc.toNat % 4 = 0)
    (h : translate .fetch s.pc s = .done r) :
    fetchBytes s =
      (checkBacked s.params r.pa 4).bind fun _ => .done (instructionBytes s.mem r.pa) := by
  rw [fetchBytes, if_pos (aligned_iff.2 ha), h]
  rfl

/-- Settles O47: DA = PG and several hits refuse the translation itself; the rest is `checkBacked_stop`
inside the access of the instruction, or inside the fetch. -/
theorem translationStops : Obligations.TranslationStops := by
  intro s
  refine ⟨fun kind va h => translate_undefinedMode h kind va, fun q ha h => ?fetchMode,
    fun kind va hm hw hu h => translate_severalMatch kind hm hw hu h,
    fun i kind n va r k h ha ht hk hb => ?data, fun r k q ha ht hk hb => ?fetch⟩
  case fetchMode =>
    rw [quiet_step q, fetchInstr_translate_refuse ha (translate_undefinedMode h .fetch s.pc)]
  case data =>
    obtain ⟨f, hexec⟩ := exec_of_dataAccessOf h
    obtain ⟨habsent, hdevice⟩ := checkBacked_stop (p := s.params) hk hb
    rw [access_translated ha ht] at hexec
    exact ⟨fun hnone => by rw [hexec, habsent hnone]; rfl,
      fun hdev => by rw [hexec, hdevice hdev]; rfl⟩
  case fetch =>
    obtain ⟨habsent, hdevice⟩ := checkBacked_stop (p := s.params) hk hb
    rw [quiet_step q, fetchInstr, fetchBytes_translated ha ht]
    exact ⟨fun hnone => by rw [habsent hnone]; rfl, fun hdev => by rw [hdevice hdev]; rfl⟩

end Sys2Proof.Machine
end

section
/-! PROOFS. Direct address translation mode (`20_memory.md` R101): what a store leaves for the loads and
the fetch after it (R82, R110, R114), and that nothing stops where all memory is backed. -/

namespace Sys2Proof.Machine

/-! Accesses. -/

theorem reaches_direct {kind : AccessKind} {n : Nat} {va : Word} {s : State} (hd : DirectMode s)
    (ha : va.toNat % n = 0) (hb : Backed n va s) : Reaches kind n va va s :=
  ⟨ha, ⟨_, translate_direct hd.1 hd.2, rfl⟩, hb⟩

theorem access_direct {n : Nat} {va : Word} {s : State} (kind : AccessKind) (hd : DirectMode s)
    (hb : Backed n va s) : access kind n va s = .done va ∨ access kind n va s = .trap (.ale va) := by
  by_cases ha : va.toNat % n = 0
  · exact .inl (access_of_reaches (reaches_direct hd ha hb))
  · exact .inr (access_misaligned ha kind s)

/-- In direct mode a ST.W stores at its own address. -/
theorem exec_stW_direct {s : State} {rd rj : Reg} {si12 : BitVec 12} {va : Word} (hd : DirectMode s)
    (hva : dataAddress rj si12 s = va) (ha : va.toNat % 4 = 0) (hb : Backed 4 va s) :
    exec (.stW rd rj si12) s = .next (s.storeBytes va (wordBytes (s.reg rd))).advance :=
  exec_of_reaches (kind := .store) (n := 4) (f := fun pa => .done (s.storeBytes pa _).advance) rfl
    (by subst hva; exact reaches_direct hd ha hb)

/-! The bytes of a stored word. -/

theorem toNat_byteAt_storeBytes_wordBytes (s : State) (pa v : Word) {k : Nat} (hk : k < 4) :
    ((s.storeBytes pa (wordBytes v)).byteAt (pa + BitVec.ofNat 32 k)).toNat =
      v.toNat / 2 ^ (8 * k) % 2 ^ 8 := by
  obtain ⟨hstored, -⟩ := storedBytes_storeBytes s pa (bs := wordBytes v) (by simp [wordBytes])
  refine hstored k _ ?_
  rw [map_toNat_wordBytes]
  simp [littleEndian, hk]

theorem add_ofNat_add (pa : Word) (k j : Nat) :
    pa + BitVec.ofNat 32 k + BitVec.ofNat 32 j = pa + BitVec.ofNat 32 (k + j) := by
  rw [BitVec.add_assoc, BitVec.ofNat_add]

/-- The two bytes from an even place of a stored word on. -/
theorem halfAt_storeBytes_wordBytes (s : State) (pa v : Word) {k : Nat} (hk : k = 0 ∨ k = 2) :
    halfAt (s.storeBytes pa (wordBytes v)) (pa + BitVec.ofNat 32 k) =
      v.toNat / 2 ^ (8 * k) % 2 ^ 16 := by
  have hlow := toNat_byteAt_storeBytes_wordBytes s pa v (k := k) (by omega)
  have hhigh := toNat_byteAt_storeBytes_wordBytes s pa v (k := k + 1) (by omega)
  rw [← add_ofNat_add] at hhigh
  rw [halfAt, hlow, hhigh]
  obtain rfl | rfl := hk <;> omega

theorem wordAt_storeBytes_wordBytes (s : State) (pa v : Word) :
    wordAt (s.storeBytes pa (wordBytes v)) pa = v.toNat := by
  have h0 := toNat_byteAt_storeBytes_wordBytes s pa v (k := 0) (by decide)
  have h1 := toNat_byteAt_storeBytes_wordBytes s pa v (k := 1) (by decide)
  have h2 := toNat_byteAt_storeBytes_wordBytes s pa v (k := 2) (by decide)
  have h3 := toNat_byteAt_storeBytes_wordBytes s pa v (k := 3) (by decide)
  rw [BitVec.add_zero] at h0
  rw [wordAt, h0, h1, h2, h3]
  omega

/-- A place inside a word at a multiple of 4, at a multiple of the width of the access. -/
theorem add_ofNat_mod_eq_zero {n k : Nat} {va : Word} (ha : va.toNat % 4 = 0) (hn : n ∣ 4)
    (hk : n ∣ k) : (va + BitVec.ofNat 32 k).toNat % n = 0 := by
  rw [BitVec.toNat_add, BitVec.toNat_ofNat, Nat.add_mod_mod,
    Nat.mod_mod_of_dvd _ (hn.trans (by decide))]
  exact Nat.mod_eq_zero_of_dvd ((hn.trans (Nat.dvd_of_mod_eq_zero ha)).add hk)

theorem reaches_inside_word {kind : AccessKind} {n k : Nat} {va : Word} {s : State}
    (hd : DirectMode s) (ha : va.toNat % 4 = 0) (hb : Backed 4 va s) (hk : k + n ≤ 4)
    (hn : n ∣ 4) (hkn : n ∣ k) :
    Reaches kind n (va + BitVec.ofNat 32 k) (va + BitVec.ofNat 32 k) s := by
  refine reaches_direct hd (add_ofNat_mod_eq_zero ha hn hkn) fun j hj => ?_
  rw [add_ofNat_add]
  exact hb (k + j) (by omega)

/-- Settles O23: each load reaches the bytes that the store left at its address. -/
theorem storeThenLoad : Obligations.StoreThenLoad := by
  intro s t rd rj si12 va hd hva ha hb hexec rd' rj' si12' k haddr
  obtain rfl := Host.Outcome.next.inj ((exec_stW_direct hd hva.symm ha hb).symm.trans hexec)
  have hreaches {n : Nat} (hk : k + n ≤ 4) (hn : n ∣ 4) (hkn : n ∣ k) :
      Reaches .load n (dataAddress rj' si12' (s.storeBytes va (wordBytes (s.reg rd))).advance)
        (va + BitVec.ofNat 32 k) (s.storeBytes va (wordBytes (s.reg rd))).advance := by
    rw [haddr]
    exact reaches_inside_word (s := (s.storeBytes va _).advance) hd ha hb hk hn hkn
  refine ⟨fun hk => ?byte, fun hk => ?half, fun hk => ?word⟩
  case byte =>
    refine computes_of_load rfl ?_ (hreaches (n := 1) hk (by decide) (one_dvd k))
    exact (toNat_zext32 (by decide) _).trans (toNat_byteAt_storeBytes_wordBytes s va _ hk)
  case half =>
    refine computes_of_load rfl ?_ (hreaches (n := 2) (by omega) (by decide) (by omega))
    rw [toNat_zext32 (by decide), toNat_readHalf]
    exact halfAt_storeBytes_wordBytes s va _ hk
  case word =>
    subst hk
    refine computes_of_load rfl ?_ (hreaches (n := 4) le_rfl dvd_rfl (dvd_zero 4))
    refine BitVec.eq_of_toNat_eq ?_
    rw [BitVec.add_zero, toNat_readWord]
    exact wordAt_storeBytes_wordBytes s va _

/-- Settles O60: the state after the store is quiet and fetches the stored word. -/
theorem storeThenFetch : Obligations.StoreThenFetch := by
  intro s rd rj si12 i q hd hpc hva hb hdecode
  have ha : (s.pc + 4#32).toNat % 4 = 0 := add_ofNat_mod_eq_zero hpc dvd_rfl dvd_rfl
  refine ⟨_, exec_stW_direct hd hva ha hb, ?_⟩
  have hquiet : Quiet (s.storeBytes (s.pc + 4#32) (wordBytes (s.reg rd))).advance := q
  have hfetches :
      Fetches (s.storeBytes (s.pc + 4#32) (wordBytes (s.reg rd))).advance (s.reg rd) :=
    ⟨ha, _, translate_direct hd.1 hd.2, hb, wordAt_storeBytes_wordBytes s (s.pc + 4#32) (s.reg rd)⟩
  rw [quiet_step hquiet, fetchInstr_of_fetches hfetches hdecode]

/-! Nothing stops where all memory is backed. -/

theorem backed_of_memoryBacked {s : State} (hm : MemoryBacked (fun _ => True) s) (n : Nat)
    (pa : Word) : Backed n pa s := fun _ _ => hm _ trivial

/-- A privileged instruction whose body completes never stops: elsewhere than at PLV0 it traps. -/
theorem privileged_done_completes (s u : State) : ∃ t, privileged s (.done u) = .next t := by
  by_cases hp : s.csr.crmd.plv = 0#2
  · exact ⟨u, privileged_kernel hp _⟩
  · exact ⟨_, privileged_user hp _⟩

/-- A privileged instruction stops at PLV0 only. -/
theorem privileged_completes_or_kernel (s : State) (body : Attempt State) :
    (∃ t, privileged s body = .next t) ∨ s.csr.crmd.plv = 0#2 := by
  by_cases hp : s.csr.crmd.plv = 0#2
  · exact .inr hp
  · exact .inl ⟨_, privileged_user hp _⟩

/-- Without a data access only the four instructions that use an index or a page size of the TLB can
stop, and these at PLV0. -/
theorem exec_completes_of_no_access {i : Instr} {s : State} (h : dataAccessOf i s = none) :
    (∃ t, exec i s = .next t) ∨
      (s.csr.crmd.plv = 0#2 ∧ (i = .tlbsrch ∨ i = .tlbrd ∨ i = .tlbwr ∨ i = .tlbfill)) := by
  cases i with
  | ldB | ldBu | ldH | ldHu | ldW | llW | stB | stH | stW => cases h
  | scW rd rj si14 =>
    have hl : s.llbit = false := by
      cases hl : s.llbit <;> simp [dataAccessOf, hl] at h ⊢
    by_cases ha : (linkAddress rj si14 s).toNat % 4 = 0
    · exact .inl ⟨_, exec_scW_unlinked hl ha⟩
    · exact .inl ⟨_, exec_scW_misaligned ha⟩
  | csrrd | csrwr | csrxchg | cacop | ertn | idle => exact .inl (privileged_done_completes s _)
  | invtlb op rj rk =>
    by_cases hop : op.toNat ≤ 6
    · rw [exec_invtlb_of_op_le hop]
      exact .inl (privileged_done_completes s _)
    · exact .inl ⟨_, if_pos (Nat.lt_of_not_le hop)⟩
  | tlbsrch | tlbrd | tlbwr | tlbfill =>
    exact (privileged_completes_or_kernel s _).imp_right fun hp => ⟨hp, by simp⟩
  | _ => exact .inl ⟨_, rfl⟩

section
variable {s : State}

theorem exec_completes_direct (i : Instr) (hd : DirectMode s) (hm : MemoryBacked (fun _ => True) s) :
    (∃ t, exec i s = .next t) ∨
      (s.csr.crmd.plv = 0#2 ∧ (i = .tlbsrch ∨ i = .tlbrd ∨ i = .tlbwr ∨ i = .tlbfill)) := by
  cases h : dataAccessOf i s with
  | none => exact exec_completes_of_no_access h
  | some a =>
    obtain ⟨kind, n, va⟩ := a
    obtain ⟨f, hexec⟩ := exec_of_dataAccessOf h
    obtain hdone | htrap := access_direct kind hd (backed_of_memoryBacked hm n va)
    · exact .inl ⟨f va, by rw [hexec, hdone]; rfl⟩
    · exact .inl ⟨_, by rw [hexec, htrap]; rfl⟩

/-- A fetch gives an instruction, or one of the traps ADEF and INE. -/
theorem fetchInstr_direct (hd : DirectMode s) (hm : MemoryBacked (fun _ => True) s) :
    (∃ i, fetchInstr s = .done i) ∨ ∃ x, fetchInstr s = .trap x := by
  by_cases ha : s.pc.toNat % 4 = 0
  · have hfetches : Fetches s (Memory.readWord s.mem s.pc) :=
      ⟨ha, _, translate_direct hd.1 hd.2, backed_of_memoryBacked hm 4 s.pc,
        (toNat_readWord s s.pc).symm⟩
    cases hdecode : decodeWord (Memory.readWord s.mem s.pc) with
    | instr i => exact .inl ⟨i, fetchInstr_of_fetches hfetches hdecode⟩
    | reject why => exact .inr ⟨_, fetchInstr_of_fetches_reject hfetches hdecode⟩
  · exact .inr ⟨_, fetchInstr_of_fetchBytes_trap (fetchBytes_misaligned ha)⟩

end

/-- Settles O56: a boundary stops nothing, and it leaves the mode and the map as they are, so that
neither the fetch nor the instruction stops. -/
theorem directModeNeverStops : Obligations.DirectModeNeverStops := by
  intro s hd hm
  cases hb : boundary s with
  | settled t => exact .inl ⟨t, by rw [step, hb]⟩
  | ready e =>
    obtain ⟨-, rfl⟩ := boundary_ready hb
    obtain ⟨-, -, -, -, -, -, hparams, -⟩ := environment_frame s
    have hde : DirectMode { environment s with idleWait := false } := by
      rw [DirectMode, environment_crmd]
      exact hd
    have hme : MemoryBacked (fun _ => True) { environment s with idleWait := false } :=
      fun pa _ => hparams.symm ▸ hm pa trivial
    obtain ⟨i, hf⟩ | ⟨x, hf⟩ := fetchInstr_direct hde hme
    · rw [step_of_boundary_ready hb hf]
      exact (exec_completes_direct i hde hme).imp_right fun ⟨hp, his⟩ => ⟨_, i, rfl, hf, hp, his⟩
    · exact .inl ⟨_, by rw [step, hb]; simp only [hf]; rfl⟩

end Sys2Proof.Machine
end

section
/-! PROOFS. Division (`41_muldiv.md` R244 to R250): the quotient cut toward zero and its remainder, and
the divisor 0, for which nothing is known of the value that is drawn. -/

namespace Sys2Proof.Machine
open Laws

/-! The results for a divisor that is not 0. -/

theorem truncatedDivision_tdiv (a : Int) {b : Int} (hb : b ≠ 0) :
    TruncatedDivision a b (a.tdiv b) (a - a.tdiv b * b) := by
  have hmod : a - a.tdiv b * b = a.tmod b := by rw [Int.tmod_def, Int.mul_comm]
  refine ⟨by omega, ?small, fun ha => ?nonneg, fun ha => ?nonpos⟩
  all_goals rw [hmod]
  case small =>
    rw [Int.abs_eq_natAbs, Int.abs_eq_natAbs, Int.ofNat_lt, Int.natAbs_tmod]
    exact Nat.mod_lt _ (Int.natAbs_pos.2 hb)
  case nonneg => exact Int.tmod_nonneg b ha
  case nonpos =>
    have hneg : 0 ≤ (-a).tmod b := Int.tmod_nonneg b (by omega)
    rw [Int.neg_tmod] at hneg
    omega

theorem toNat_ofInt_word (q : Int) : ((BitVec.ofInt 32 q).toNat : Int) = q % 2 ^ 32 := by
  rw [BitVec.toNat_ofInt]
  omega

theorem toNat_quotientUnsigned (a b : Word) : (quotientUnsigned a b).toNat = a.toNat / b.toNat := by
  have hle : a.toNat / b.toNat ≤ a.toNat := Nat.div_le_self _ _
  rw [quotientUnsigned, BitVec.toNat_ofNat, Nat.mod_eq_of_lt (by omega)]

theorem toNat_remainderUnsigned (a b : Word) : (remainderUnsigned a b).toNat = a.toNat % b.toNat := by
  have hle : a.toNat % b.toNat ≤ a.toNat := Nat.mod_le _ _
  rw [remainderUnsigned, BitVec.toNat_ofNat, Nat.mod_eq_of_lt (by omega)]

/-! The end of a division. -/

section
variable {i : Instr} {rd : Reg} {d v : Word} {s : State}

theorem computes_of_divideNext {P : Word → Prop} (h : exec i s = .next (divideNext rd d v s))
    (hd : d ≠ 0#32) (hv : P v) : Computes i rd s P :=
  computes_of_exec_writeNext (h.trans (by rw [divideNext, if_neg hd])) hv

theorem computesUnspecified_of_divideNext (h : exec i s = .next (divideNext rd d v s))
    (hd : d = 0#32) : ComputesUnspecified i rd s := by
  rw [divideNext, if_pos hd] at h
  exact ⟨_, _, h, (reg_writeNext s rd · _), BitVec.toNat_add _ _, fun _ => rfl, rfl,
    rfl, rfl, ⟨rfl, rfl, rfl, rfl, rfl, rfl, rfl, rfl⟩⟩

end

/-- Settles O13: the four rows, and each instruction at either kind of divisor. -/
theorem divideAndRemainder : Obligations.DivideAndRemainder := by
  intro s rd rj rk
  refine ⟨⟨EncodingMatchesTable.divW rd rj rk rfl, EncodingMatchesTable.modW rd rj rk rfl,
    EncodingMatchesTable.divWu rd rj rk rfl, EncodingMatchesTable.modWu rd rj rk rfl⟩,
    fun hne => ⟨?div, ?mod, ?divu, ?modu⟩, fun hzero => ?unspecified⟩
  case unspecified =>
    exact ⟨computesUnspecified_of_divideNext rfl hzero, computesUnspecified_of_divideNext rfl hzero,
      computesUnspecified_of_divideNext rfl hzero, computesUnspecified_of_divideNext rfl hzero⟩
  all_goals
    have hint : (s.reg rk).toInt ≠ 0 := fun h => hne (BitVec.eq_of_toInt_eq h)
    have hpos : 0 < (s.reg rk).toNat := Nat.pos_of_ne_zero fun h => hne (BitVec.eq_of_toNat_eq h)
  case div | mod =>
    exact computes_of_divideNext rfl hne
      ⟨_, _, truncatedDivision_tdiv (s.reg rj).toInt hint, toNat_ofInt_word _⟩
  case divu =>
    refine computes_of_divideNext rfl hne ?_
    rw [toNat_quotientUnsigned]
    exact ⟨Nat.div_mul_le_self _ _, Nat.lt_mul_of_div_lt (Nat.lt_succ_self _) hpos⟩
  case modu =>
    refine computes_of_divideNext rfl hne ?_
    rw [toNat_remainderUnsigned]
    exact ⟨Nat.mod_lt _ hpos, _, (Nat.div_add_mod' _ _).symm⟩

end Sys2Proof.Machine
end

section
/-! PROOFS. A jump to a misaligned place, INVTLB, IDLE, and the return from a trap
(`42_branch_jump.md` R271, `45_privileged.md` R350, R365, `60_exceptions.md` R420 to R426). -/

namespace Sys2Proof.Machine
open Laws

/-! JIRL. -/

/-- Settles O16: the jump leaves the state quiet and the pc misaligned, which is the first thing that
the next fetch looks at. -/
theorem misalignedJumpTarget : Obligations.MisalignedJumpTarget := by
  intro s rd rj offs16 q hmis
  obtain ⟨-, -, hjirl⟩ := jumps s rd rj offs16 0
  obtain ⟨-, t, hexec, hlink, hpc, -, -, -, hcsr, -, houtside⟩ := hjirl
  refine ⟨t, hexec, hlink, hpc, ?_⟩
  obtain ⟨hinputs, hidle, hie⟩ := q
  have hpending : pendingEnabled t = pendingEnabled s := by
    simp only [pendingEnabled, interruptStatus, hcsr, houtside.hwi, houtside.ipi]
  have hquiet : Quiet t :=
    ⟨houtside.inputs.trans hinputs, houtside.idleWait.trans hidle, by rwa [hcsr, hpending]⟩
  rw [← hpc] at hmis ⊢
  exact stepTraps_of_fetchInstr hquiet (fetchInstr_of_fetchBytes_trap (fetchBytes_misaligned hmis))

/-! INVTLB. -/

theorem covers_iff_entryMaps {e : TlbEntry} {va : Word} : e.covers va = true ↔ EntryMaps e va := by
  simp [TlbEntry.covers, EntryMaps, Nat.shiftRight_eq_div_pow, and_assoc]

/-- The condition of each op, in the words of the table of R350. -/
theorem invtlbSelects_iff {op : BitVec 5} (hop : op.toNat ≤ 6) {asid : BitVec 10} {va : Word}
    {e : TlbEntry} :
    invtlbSelects op asid va e = true ↔ InvtlbClears op.toNat asid.toNat va e := by
  simp only [invtlbSelects, InvtlbClears, ← BitVec.toNat_inj, BitVec.reduceToNat]
  generalize op.toNat = n at hop
  interval_cases n <;> simp [covers_iff_entryMaps, ← BitVec.toNat_inj, and_assoc]

theorem getElem?_invalidate {op : BitVec 5} {asid : BitVec 10} {va : Word} {tlb : List TlbEntry}
    {j : Nat} {e : TlbEntry} (h : tlb[j]? = some e) :
    (invalidate op asid va tlb)[j]? =
      some (if invtlbSelects op asid va e then { e with e := false } else e) := by
  rw [invalidate, List.getElem?_map, h]
  rfl

/-- Settles O39: an op above 6 raises INE before the level is asked; for the others `invalidate` goes
through the TLB entry by entry. -/
theorem invalidateTlb : Obligations.InvalidateTlb := by
  intro s op rj rk
  refine ⟨(encode3R_row _ _ _ _).trans rfl, fun hop => ?ine,
    fun hop => checksPrivilege_of_exec_privileged (exec_invtlb_of_op_le hop rj rk s),
    fun hop hp => ?clears⟩
  case ine => exact traps_of_exec_raise (x := .ine) (if_pos hop)
  case clears =>
    have hexec := exec_eq_next_of_kernel hp (exec_invtlb_of_op_le hop rj rk s) rfl
    have hasid : ((s.reg rj).extractLsb' 0 10).toNat = (s.reg rj).toNat % 2 ^ 10 :=
      BitVec.extractLsb'_toNat 0 10 (s.reg rj)
    refine ⟨_, systemOnly_of_exec hexec, rfl, rfl, length_invalidate _ _ _ _, fun j e he => ?_⟩
    rw [← hasid, ← invtlbSelects_iff hop]
    exact ⟨fun hsel => (getElem?_invalidate he).trans (by rw [if_pos hsel]),
      fun hsel => (getElem?_invalidate he).trans (by rw [if_neg hsel])⟩

/-! IDLE. -/

/-- Settles O33: the wait bit is set on the state after the pc has advanced. -/
theorem idle : Obligations.Idle := by
  intro s hint
  exact ⟨EncodingMatchesTable.idle hint rfl, checksPrivilege_of_exec_privileged rfl,
    fun hp => ⟨_, exec_eq_next_of_kernel hp rfl rfl, rfl, BitVec.toNat_add _ _, fun _ => rfl,
      fun _ => rfl, rfl, rfl, rfl, rfl, ⟨rfl, rfl, rfl, rfl, rfl, rfl, rfl, rfl⟩⟩⟩

/-! A trap and the return from it. -/

/-- The return undoes what the trap made of CRMD: PLV and IE come back from PRMD, and the translation
mode was changed by a refill only, which comes from mapped mode. -/
theorem crmd_trapReturn_of_enters {s t : State} {code sub : Nat} {bad vpn : Option Word}
    (h : Enters code sub bad vpn s t) (hmapped : code = 0x3F → MappedMode s) :
    (trapReturn t).csr.crmd = s.csr.crmd := by
  have hecode : t.csr.estat.ecode = 0x3F#6 ↔ code = 0x3F := by
    rw [← BitVec.toNat_inj, h.ecode]
    rfl
  have hmode : (if t.csr.estat.ecode = 0x3F#6 then false else t.csr.crmd.da) = s.csr.crmd.da ∧
      (if t.csr.estat.ecode = 0x3F#6 then true else t.csr.crmd.pg) = s.csr.crmd.pg := by
    by_cases hcode : code = 0x3F
    · obtain ⟨hda, hpg⟩ := hmapped hcode
      simp [hecode, hcode, hda, hpg]
    · simp [hecode, hcode, h.da, h.pg]
  obtain ⟨hda, hpg⟩ := hmode
  obtain ⟨hdatf, hdatm⟩ := h.mats
  simp only [trapReturn_csr, returnCsrs, hda, hpg, h.pplv, h.pie, hdatf, hdatm]

/-- Settles O41: the handler runs at PLV0, so its ERTN is the return; the pc comes back from ERA. -/
theorem trapThenReturn : Obligations.TrapThenReturn := by
  intro s t code sub bad vpn h hmapped
  exact ⟨trapReturn t, exec_ertn_kernel h.plv, crmd_trapReturn_of_enters h hmapped, h.era,
    h.regs, h.mem⟩

end Sys2Proof.Machine
end

section
/-! PROOFS. Interrupts, waiting and the timer (`60_exceptions.md` R435, R444, `45_privileged.md`
R365). -/

namespace Sys2Proof.Machine

/-! The decision at a boundary. -/

/-- IS and LIE lie in the same places of ESTAT and ECFG, and ECFG has no bit above them. -/
theorem csrRead_estat_and_ecfg_eq_zero_iff {s : State} :
    csrRead 0x5#14 s &&& csrRead 0x4#14 s = 0#32 ↔ pendingEnabled s = 0#13 := by
  have hand : csrRead 0x5#14 s &&& csrRead 0x4#14 s = 0#19 ++ pendingEnabled s :=
    calc csrRead 0x5#14 s &&& csrRead 0x4#14 s
      _ = estatWord s &&& s.csr.ecfg.toWord :=
        congrArg₂ _ (csrRead_csrNumber .estat s) (csrRead_csrNumber .ecfg s)
      _ = 0#19 ++ pendingEnabled s := by
        rw [estatWord, Ecfg.toWord]
        exact BitVec.and_append.trans (congrArg (· ++ pendingEnabled s) BitVec.and_zero)
  rw [hand, ← BitVec.toNat_inj, ← BitVec.toNat_inj, toNat_zeros_append]
  rfl

/-- Settles O49: the two cases of the decision in which no instruction is fetched. -/
theorem interruptAndIdle : Obligations.InterruptAndIdle := by
  rintro s e hr rfl
  have hdecision : boundary s = interruptDecision (environment s) := if_neg (by simp [hr])
  simp only [ne_eq, csrRead_estat_and_ecfg_eq_zero_iff]
  refine ⟨fun hidle hnone => ?waits, fun hie hsome => ?interrupt⟩
  case waits =>
    have hb : boundary s = .settled (environment s) := hdecision.trans (if_pos ⟨hidle, hnone⟩)
    rw [step, hb]
  case interrupt =>
    have hb := hdecision.trans ((if_neg fun h => hsome h.2).trans (if_pos ⟨hie, hsome⟩))
    exact ⟨_, by rw [step, hb], enters_trapEntry .int { environment s with idleWait := false }⟩

/-! One tick of the timer. -/

theorem ticks_add (m n : Nat) (s : State) : ticks (m + n) s = ticks n (ticks m s) := by
  induction m generalizing s with
  | zero => rw [Nat.zero_add, ticks]
  | succ m ih => rw [Nat.succ_add_eq_add_succ, Nat.add_succ, ticks, ih, ticks]

theorem ticks_succ_eq_tick (n : Nat) (s : State) : ticks (n + 1) s = tick (ticks n s) :=
  ticks_add n 1 s

section
variable {s : State}

theorem tick_stopped (h : s.timerRunning = false) :
    (tick s).timerCnt = s.timerCnt ∧ (tick s).timerRunning = false ∧
      (tick s).csr.estat.ti = s.csr.estat.ti := by
  simp [tick, timerTick, h]

theorem tick_counts (h : s.timerRunning = true) (hne : s.timerCnt.toNat ≠ 0) :
    (tick s).timerCnt.toNat = s.timerCnt.toNat - 1 ∧ (tick s).timerRunning = true ∧
      (tick s).csr.estat.ti = s.csr.estat.ti := by
  have hne : s.timerCnt ≠ 0#32 := fun h0 => hne (by rw [h0]; rfl)
  have hsub : (s.timerCnt - 1#32).toNat = s.timerCnt.toNat - 1 := by bv_omega
  simp [tick, timerTick, h, hne, ← hsub]

theorem tick_expires_periodic (h : s.timerRunning = true) (hzero : s.timerCnt.toNat = 0)
    (hp : s.csr.tcfg.periodic = true) :
    (tick s).timerCnt.toNat = 4 * s.csr.tcfg.initVal.toNat ∧ (tick s).timerRunning = true ∧
      (tick s).csr.estat.ti = true := by
  have hzero : s.timerCnt = 0#32 := BitVec.eq_of_toNat_eq hzero
  have hload := toNat_append_zeros s.csr.tcfg.initVal 2
  simp [tick, timerTick, h, hzero, hp, hload]

theorem tick_expires_once (h : s.timerRunning = true) (hzero : s.timerCnt.toNat = 0)
    (hp : s.csr.tcfg.periodic = false) :
    (tick s).timerRunning = false ∧ (tick s).csr.estat.ti = true := by
  have hzero : s.timerCnt = 0#32 := BitVec.eq_of_toNat_eq hzero
  simp [tick, timerTick, h, hzero, hp]

end

/-! Any number of ticks. -/

theorem ticks_tcfg (n : Nat) (s : State) : (ticks n s).csr.tcfg = s.csr.tcfg := by
  obtain ⟨-, -, -, -, -, -, -, -, -, -, -, b, hcsr⟩ := ticks_frame n s
  rw [hcsr]

theorem ticks_stopped {s : State} (h : s.timerRunning = false) (n : Nat) :
    (ticks n s).timerCnt = s.timerCnt ∧ (ticks n s).timerRunning = false ∧
      (ticks n s).csr.estat.ti = s.csr.estat.ti := by
  induction n with
  | zero => exact ⟨rfl, h, rfl⟩
  | succ n ih =>
    obtain ⟨hcnt, hrunning, hti⟩ := ih
    obtain ⟨hcnt', hrunning', hti'⟩ := tick_stopped hrunning
    rw [ticks_succ_eq_tick]
    exact ⟨hcnt'.trans hcnt, hrunning', hti'.trans hti⟩

section
variable {s : State} {load : Nat}

/-- Down to 0 the two kinds of timer do the same. -/
theorem ticks_counting (h : s.timerRunning = true) (hcnt : s.timerCnt.toNat = load) {n : Nat}
    (hn : n ≤ load) :
    (ticks n s).timerCnt.toNat = load - n ∧ (ticks n s).timerRunning = true ∧
      (ticks n s).csr.estat.ti = s.csr.estat.ti := by
  induction n with
  | zero => exact ⟨hcnt, h, rfl⟩
  | succ n ih =>
    obtain ⟨hcnt, hrunning, hti⟩ := ih (by omega)
    obtain ⟨hcnt', hrunning', hti'⟩ := tick_counts hrunning (by omega)
    rw [ticks_succ_eq_tick]
    exact ⟨by omega, hrunning', hti'.trans hti⟩

/-- The tick after the place `load` of a round, where the counter is 0, begins the next round. -/
theorem ticks_periodic (h : s.timerRunning = true) (hload : load = 4 * s.csr.tcfg.initVal.toNat)
    (hcnt : s.timerCnt.toNat = load) (hp : s.csr.tcfg.periodic = true) (n : Nat) :
    (ticks n s).timerCnt.toNat = load - n % (load + 1) ∧ (ticks n s).timerRunning = true ∧
      (ticks n s).csr.estat.ti = (s.csr.estat.ti || decide (load < n)) := by
  induction n with
  | zero => exact ⟨by rw [Nat.zero_mod]; exact hcnt, h, by simp [ticks]⟩
  | succ n ih =>
    obtain ⟨hcnt, hrunning, hti⟩ := ih
    rw [ticks_succ_eq_tick]
    have hplace : n % (load + 1) < load + 1 := Nat.mod_lt _ (Nat.succ_pos load)
    have hle : n % (load + 1) ≤ n := Nat.mod_le _ _
    by_cases hend : n % (load + 1) = load
    · have hnext : (n + 1) % (load + 1) = 0 := by
        rw [← Nat.mod_add_mod, hend, Nat.mod_self]
      have hp' : (ticks n s).csr.tcfg.periodic = true := by rw [ticks_tcfg]; exact hp
      obtain ⟨hcnt', hrunning', hti'⟩ := tick_expires_periodic hrunning (by omega) hp'
      rw [ticks_tcfg] at hcnt'
      refine ⟨by omega, hrunning', ?_⟩
      rw [hti', decide_eq_true (show load < n + 1 by omega), Bool.or_true]
    · have hnext : (n + 1) % (load + 1) = n % (load + 1) + 1 := by
        rw [← Nat.mod_add_mod, Nat.mod_eq_of_lt (by omega)]
      have hne : n ≠ load := fun h => hend (h ▸ Nat.mod_eq_of_lt (Nat.lt_succ_self n))
      have hsame : load < n + 1 ↔ load < n := by omega
      obtain ⟨hcnt', hrunning', hti'⟩ := tick_counts hrunning (by omega)
      refine ⟨by omega, hrunning', ?_⟩
      rw [hti', hti]
      simp only [hsame]

/-- A one-shot timer whose round is over has marked the interrupt and is a stopped one from then on. -/
theorem ticks_once (h : s.timerRunning = true) (hcnt : s.timerCnt.toNat = load)
    (hp : s.csr.tcfg.periodic = false) {n : Nat} (hn : load < n) :
    (ticks n s).timerCnt = (ticks (load + 1) s).timerCnt ∧ (ticks n s).timerRunning = false ∧
      (ticks n s).csr.estat.ti = true := by
  obtain ⟨m, rfl⟩ := Nat.exists_eq_add_of_le (Nat.succ_le_of_lt hn)
  obtain ⟨hzero, hrunning, -⟩ := ticks_counting h hcnt le_rfl
  have hp' : (ticks load s).csr.tcfg.periodic = false := by rw [ticks_tcfg]; exact hp
  obtain ⟨hstopped, hmarked⟩ := tick_expires_once hrunning (by omega) hp'
  rw [← ticks_succ_eq_tick] at hstopped hmarked
  obtain ⟨hcnt', hrunning', hti'⟩ := ticks_stopped hstopped m
  rw [ticks_add (load + 1) m]
  exact ⟨hcnt', hrunning', hti'.trans hmarked⟩

end

/-- Settles O50: a round of the periodic timer is a remainder; the one-shot timer counts to 0, expires
in one tick more and is a stopped one after it. -/
theorem timerCountdown : Obligations.TimerCountdown := by
  intro s n load hload
  exact ⟨fun h hcnt hp => ticks_periodic h hload hcnt hp n,
    fun h hcnt hp => ⟨fun hn => ticks_counting h hcnt hn, fun hn => ticks_once h hcnt hp hn⟩,
    fun h => ticks_stopped h n⟩

end Sys2Proof.Machine
end

section
/-! PROOFS. Writes to CSRs (`10_state.md` R32 to R56, `45_privileged.md` R331 to R333): every layout
is a row of fields beside each other, and a write puts the bits of the new word into the writable ones.
CSRWR and CSRXCHG then share one lemma, with all bits or x[rj] as the mask. -/

namespace Sys2Proof.Machine
open Laws

/-! Bits under a mask. -/

/-- The bits of `v` where the mask is 1, the old ones elsewhere, at any width. -/
def mergeBits {n : Nat} (old v mask : BitVec n) : BitVec n := (old &&& ~~~mask) ||| (v &&& mask)

theorem mergeBits_allOnes {n : Nat} (old v : BitVec n) :
    mergeBits old v (BitVec.allOnes n) = v := by
  simp [mergeBits]

theorem mergeBits_zero {n : Nat} (old v : BitVec n) : mergeBits old v 0#n = old := by
  simp [mergeBits]

/-- Fields beside each other are merged one by one, each with its own bits of the word written. -/
theorem mergeBits_append {m n k : Nat} (a ma : BitVec m) (b mb : BitVec n) (w : BitVec k) (i : Nat) :
    mergeBits (a ++ b) (w.extractLsb' i (m + n)) (ma ++ mb) =
      mergeBits a (w.extractLsb' (i + n) m) ma ++ mergeBits b (w.extractLsb' i n) mb := by
  have hw : w.extractLsb' i (m + n) = w.extractLsb' (i + n) m ++ w.extractLsb' i n :=
    (BitVec.extractLsb'_append_extractLsb'_eq_extractLsb' rfl).symm
  simp only [hw, mergeBits, BitVec.not_append, BitVec.and_append, BitVec.or_append]

/-- The form in which `mergeBits_append` begins with a whole word. -/
theorem mergeBits_extractLsb'_zero {n : Nat} (old w mask : BitVec n) :
    mergeBits old w mask = mergeBits old (w.extractLsb' 0 n) mask := by
  rw [BitVec.extractLsb'_eq_self]

theorem getLsbD_mergeBits {n k : Nat} (hk : k < n) (old v mask : BitVec n) :
    (mergeBits old v mask).getLsbD k = if mask.getLsbD k then v.getLsbD k else old.getLsbD k := by
  simp only [mergeBits, BitVec.getLsbD_or, BitVec.getLsbD_and, BitVec.getLsbD_not, decide_eq_true hk]
  cases mask.getLsbD k <;> simp

theorem maskedWord_eq_mergeBits (old value mask : Word) :
    maskedWord old value mask = mergeBits old value mask := rfl

/-- A write under a mask, of which the register keeps the writable bits. -/
theorem mergeBits_maskedWord (old value mask rw : Word) :
    mergeBits old (maskedWord old value mask) rw = maskedWrite old value mask rw := by
  have hwrite : maskedWrite old value mask rw = mergeBits old value (mask &&& rw) := by
    rw [maskedWrite, mergeBits, BitVec.and_assoc]
  rw [hwrite]
  refine BitVec.eq_of_getLsbD_eq fun k hk => ?_
  rw [getLsbD_mergeBits hk, maskedWord_eq_mergeBits, getLsbD_mergeBits hk, getLsbD_mergeBits hk,
    BitVec.getLsbD_and]
  cases mask.getLsbD k <;> cases rw.getLsbD k <;> rfl

theorem maskedWord_allOnes (old value : Word) : maskedWord old value (BitVec.allOnes 32) = value :=
  mergeBits_allOnes old value

theorem maskedWord_eq_maskedWrite (old value mask : Word) :
    maskedWord old value mask = maskedWrite old value mask 0xFFFFFFFF#32 :=
  (mergeBits_allOnes old _).symm.trans (mergeBits_maskedWord old value mask (BitVec.allOnes 32))

/-! The layouts: the writable fields of a register as the bits of its word under a mask. Each proof
cuts the mask at the borders of the fields. -/

theorem flagBit_getLsbD {n : Nat} (v : BitVec n) (k : Nat) :
    flagBit (v.getLsbD k) = v.extractLsb' k 1 := by
  refine BitVec.eq_of_getLsbD_eq fun i hi => ?_
  obtain rfl : i = 0 := by omega
  simp [flagBit]

theorem mergeBits_high {m n : Nat} (a : BitVec m) (b : BitVec n) (v : BitVec (m + n)) :
    mergeBits (a ++ b) v (BitVec.allOnes m ++ 0#n) = v.extractLsb' n m ++ b := by
  rw [mergeBits_extractLsb'_zero, mergeBits_append, mergeBits_allOnes, mergeBits_zero, Nat.zero_add]

theorem mergeBits_low {m n : Nat} (a : BitVec m) (b : BitVec n) (v : BitVec (m + n)) :
    mergeBits (a ++ b) v (0#m ++ BitVec.allOnes n) = a ++ v.extractLsb' 0 n := by
  rw [mergeBits_extractLsb'_zero, mergeBits_append, mergeBits_allOnes, mergeBits_zero]

theorem Crmd.mergeBits_toWord (c : Crmd) (w : Word) :
    mergeBits c.toWord w 0x1FF#32 = (Crmd.ofWord w).toWord := by
  have hmask : 0x1FF#32 = 0#23 ++ BitVec.allOnes 2 ++ BitVec.allOnes 2 ++ BitVec.allOnes 1 ++
      BitVec.allOnes 1 ++ BitVec.allOnes 1 ++ BitVec.allOnes 2 := by decide
  rw [hmask, Crmd.toWord, Crmd.toWord]
  change mergeBits (n := 23 + 2 + 2 + 1 + 1 + 1 + 2) _ _ _ = _
  rw [mergeBits_extractLsb'_zero]
  simp only [mergeBits_append, mergeBits_allOnes, mergeBits_zero, Crmd.ofWord, flagBit_getLsbD]

theorem Prmd.mergeBits_toWord (p : Prmd) (w : Word) :
    mergeBits p.toWord w 0x7#32 = (Prmd.ofWord w).toWord := by
  have hmask : 0x7#32 = 0#29 ++ BitVec.allOnes 1 ++ BitVec.allOnes 2 := by decide
  rw [hmask, Prmd.toWord, Prmd.toWord]
  change mergeBits (n := 29 + 1 + 2) _ _ _ = _
  rw [mergeBits_extractLsb'_zero]
  simp only [mergeBits_append, mergeBits_allOnes, mergeBits_zero, Prmd.ofWord, flagBit_getLsbD]

theorem Ecfg.mergeBits_toWord (e : Ecfg) (w : Word) :
    mergeBits e.toWord w 0x1BFF#32 = (Ecfg.ofWord w).toWord := by
  have hmask : 0x1BFF#32 = 0#19 ++ (BitVec.allOnes 2 ++ 0#1 ++ BitVec.allOnes 10) := by decide
  rw [hmask, Ecfg.toWord, Ecfg.toWord, Ecfg.lie, Ecfg.lie]
  change mergeBits (n := 19 + (2 + 1 + 10)) _ _ _ = _
  rw [mergeBits_extractLsb'_zero]
  simp only [mergeBits_append, mergeBits_allOnes, mergeBits_zero, Ecfg.ofWord]

theorem TlbElo.mergeBits_toWord (t : TlbElo) (w : Word) :
    mergeBits t.toWord w 0x0FFFFF7F#32 = (TlbElo.ofWord w).toWord := by
  have hmask : 0x0FFFFF7F#32 = 0#4 ++ BitVec.allOnes 20 ++ 0#1 ++ BitVec.allOnes 1 ++
      BitVec.allOnes 2 ++ BitVec.allOnes 2 ++ BitVec.allOnes 1 ++ BitVec.allOnes 1 := by decide
  rw [hmask, TlbElo.toWord, TlbElo.toWord]
  change mergeBits (n := 4 + 20 + 1 + 1 + 2 + 2 + 1 + 1) _ _ _ = _
  rw [mergeBits_extractLsb'_zero]
  simp only [mergeBits_append, mergeBits_allOnes, mergeBits_zero, TlbElo.ofWord, flagBit_getLsbD]

theorem Dmw.mergeBits_toWord (d : Dmw) (w : Word) :
    mergeBits d.toWord w 0xEE000039#32 = (Dmw.ofWord w).toWord := by
  have hmask : 0xEE000039#32 = BitVec.allOnes 3 ++ 0#1 ++ BitVec.allOnes 3 ++ 0#19 ++
      BitVec.allOnes 2 ++ BitVec.allOnes 1 ++ 0#2 ++ BitVec.allOnes 1 := by decide
  rw [hmask, Dmw.toWord, Dmw.toWord]
  change mergeBits (n := 3 + 1 + 3 + 19 + 2 + 1 + 2 + 1) _ _ _ = _
  rw [mergeBits_extractLsb'_zero]
  simp only [mergeBits_append, mergeBits_allOnes, mergeBits_zero, Dmw.ofWord, flagBit_getLsbD]

/-- TLBIDX with a mask of its own for Index. -/
theorem TlbIdx.mergeBits_toWord (t : TlbIdx) (w : Word) (mask : BitVec 16) :
    mergeBits t.toWord w (BitVec.allOnes 1 ++ 0#1 ++ BitVec.allOnes 6 ++ 0#8 ++ mask) =
      TlbIdx.toWord
        { index := mergeBits t.index (w.extractLsb' 0 16) mask
          ps := w.extractLsb' 24 6
          ne := w.getLsbD 31 } := by
  rw [TlbIdx.toWord, TlbIdx.toWord]
  change mergeBits (n := 1 + 1 + 6 + 8 + 16) _ _ _ = _
  rw [mergeBits_extractLsb'_zero]
  simp only [mergeBits_append, mergeBits_allOnes, mergeBits_zero, flagBit_getLsbD]

/-- IS[1:0] are the two low bits of ESTAT, and the only writable ones. -/
theorem mergeBits_estatWord (s : State) (w : Word) :
    mergeBits (estatWord s) w 0x3#32 =
      estatWord { s with
        csr := { s.csr with estat := { s.csr.estat with swi := w.extractLsb' 0 2 } } } := by
  have hmask : 0x3#32 =
      0#1 ++ 0#9 ++ 0#6 ++ 0#3 ++ (0#1 ++ 0#1 ++ 0#1 ++ 0#8 ++ BitVec.allOnes 2) := by decide
  rw [hmask, estatWord, estatWord, interruptStatus, interruptStatus]
  change mergeBits (n := 1 + 9 + 6 + 3 + (1 + 1 + 1 + 8 + 2)) _ _ _ = _
  rw [mergeBits_extractLsb'_zero]
  simp only [mergeBits_append, mergeBits_allOnes, mergeBits_zero]

/-- Clearing IS[11] is merging a 0 into bit 11 of ESTAT. -/
theorem estatWord_clear_ti (s : State) :
    estatWord { s with csr := { s.csr with estat := { s.csr.estat with ti := false } } } =
      estatWord s &&& ~~~0x800#32 := by
  have hmerge : estatWord s &&& ~~~0x800#32 = mergeBits (estatWord s) 0#32 0x800#32 := by
    rw [mergeBits, BitVec.zero_and, BitVec.or_zero]
  have hmask : 0x800#32 =
      0#1 ++ 0#9 ++ 0#6 ++ 0#3 ++ (0#1 ++ BitVec.allOnes 1 ++ 0#1 ++ 0#8 ++ 0#2) := by decide
  rw [hmerge, hmask, estatWord, estatWord, interruptStatus, interruptStatus]
  change _ = mergeBits (n := 1 + 9 + 6 + 3 + (1 + 1 + 1 + 8 + 2)) _ _ _
  rw [mergeBits_extractLsb'_zero]
  simp only [mergeBits_append, mergeBits_allOnes, mergeBits_zero]
  rfl

/-! The registers that only store. -/

/-- The bits of the RW fields of a register that only stores; 0 for the others. -/
def CsrName.rwBits : CsrName → Word
  | .crmd => 0x1FF
  | .prmd => 0x7
  | .ecfg => 0x1BFF
  | .estat => 0x3
  | .eentry | .tlbreentry => 0xFFFFFFC0
  | .tlbehi => 0xFFFFE000
  | .tlbelo0 | .tlbelo1 => 0x0FFFFF7F
  | .asid => 0x3FF
  | .pgdl | .pgdh => 0xFFFFF000
  | .era | .badv | .save0 | .save1 | .save2 | .save3 | .tid => 0xFFFFFFFF
  | .dmw0 | .dmw1 => 0xEE000039
  | .euen | .tlbidx | .pgd | .cpuid | .tcfg | .tval | .ticlr | .llbctl | .ctag => 0

/-- The registers of `storageCsrs`, by name. -/
def storageNames : List CsrName :=
  [.crmd, .prmd, .ecfg, .estat, .era, .badv, .eentry, .tlbehi, .tlbelo0, .tlbelo1, .asid, .pgdl, .pgdh,
    .save0, .save1, .save2, .save3, .tid, .tlbreentry, .dmw0, .dmw1]

theorem storageCsrs_eq_map : storageCsrs = storageNames.map fun c => (csrNumber c, c.rwBits) := rfl

theorem csrWord_csrStore_storage {c : CsrName} (h : c ∈ storageNames) (w ones : Word) (s : State) :
    csrWord c (csrStore c w ones s) = mergeBits (csrWord c s) w c.rwBits := by
  cases c with
  | crmd => exact (Crmd.mergeBits_toWord _ w).symm
  | prmd => exact (Prmd.mergeBits_toWord _ w).symm
  | ecfg => exact (Ecfg.mergeBits_toWord _ w).symm
  | estat => exact (mergeBits_estatWord s w).symm
  | tlbelo0 | tlbelo1 => exact (TlbElo.mergeBits_toWord _ w).symm
  | dmw0 | dmw1 => exact (Dmw.mergeBits_toWord _ w).symm
  | eentry => exact (mergeBits_high s.csr.eentry 0#6 w).symm
  | tlbreentry => exact (mergeBits_high s.csr.tlbreentry 0#6 w).symm
  | tlbehi => exact (mergeBits_high s.csr.tlbehi 0#13 w).symm
  | pgdl => exact (mergeBits_high s.csr.pgdl 0#12 w).symm
  | pgdh => exact (mergeBits_high s.csr.pgdh 0#12 w).symm
  | asid => exact (mergeBits_low (0#8 ++ 10#8 ++ 0#6) s.csr.asid w).symm
  | era | badv | save0 | save1 | save2 | save3 | tid => exact (mergeBits_allOnes _ w).symm
  | _ => exact absurd h (by decide)

/-! What a write leaves. -/

/-- The registers that a write to a register can show in. -/
def CsrName.shownIn : CsrName → List CsrName
  | .badv => [.badv, .pgd]
  | .pgdl => [.pgdl, .pgd]
  | .pgdh => [.pgdh, .pgd]
  | .tcfg => [.tcfg, .tval]
  | .ticlr => [.estat]
  | c => [c]

/-- No other register shows it. The form with `if` is one that every pair of registers meets by
definition. -/
theorem csrWord_csrStore_of_not_shown {c d : CsrName} (h : d ∉ c.shownIn) (w ones : Word)
    (s : State) : csrWord d (csrStore c w ones s) = csrWord d s := by
  suffices hif : csrWord d (csrStore c w ones s) =
      if d ∈ c.shownIn then csrWord d (csrStore c w ones s) else csrWord d s by
    rw [hif, if_neg h]
  cases c with
  | tcfg => rw [csrStore, loadTimer_eq]; cases d <;> rfl
  | _ => cases d <;> rfl

theorem csrRead_csrWrite_of_not_shown {c : CsrName} {n : BitVec 14}
    (h : ∀ d ∈ c.shownIn, csrNumber d ≠ n) (value mask : Word) (s : State) :
    csrRead n (csrWrite (csrNumber c) value mask s) = csrRead n s := by
  cases hn : csrNamed n with
  | none =>
    have hn := csrNamed_eq_none_iff.1 hn
    rw [csrRead_undefined hn, csrRead_undefined hn]
  | some d =>
    obtain rfl := csrNumber_of_csrNamed hn
    rw [csrRead_csrNumber, csrRead_csrNumber, csrWrite_csrNumber,
      csrWord_csrStore_of_not_shown fun hd => h d hd rfl]

/-- No CSR shows the general registers or the pc. -/
theorem csrRead_writeNext (n : BitVec 14) (rd : Reg) (v : Word) (s : State) :
    csrRead n (writeNext rd v s) = csrRead n s := by
  cases hn : csrNamed n with
  | none =>
    have hn := csrNamed_eq_none_iff.1 hn
    rw [csrRead_undefined hn, csrRead_undefined hn]
  | some c =>
    obtain rfl := csrNumber_of_csrNamed hn
    rw [csrRead_csrNumber, csrRead_csrNumber]
    cases c <;> rfl

/-- CSRWR and CSRXCHG of a register, with the mask of either. -/
theorem swapsCsr_writeNext_csrWrite {c : CsrName} {changed : List (BitVec 14)}
    (h : ∀ d ∈ c.shownIn, csrNumber d ∈ changed) (rd : Reg) (value mask : Word) (s : State) :
    SwapsCsr rd (csrNumber c) changed s
      (writeNext rd (csrRead (csrNumber c) s) (csrWrite (csrNumber c) value mask s)) := by
  obtain ⟨hgpr, hpc, htlb, -, -, -, -, hmem, -, hdraws, -⟩ :=
    csrWrite_frame (csrNumber c) value mask s
  exact
    { regs := fun r => by rw [reg_writeNext, reg_congr hgpr]
      pc := by rw [Advances, writeNext_pc, hpc, BitVec.toNat_add]; rfl
      mem := fun pa => congrArg (Memory.readByte · pa) hmem
      draws := hdraws
      tlb := htlb
      others := fun n hn => by
        have hnot : ∀ d ∈ c.shownIn, csrNumber d ≠ n := fun d hd heq => hn (heq ▸ h d hd)
        rw [csrRead_writeNext, csrRead_csrWrite_of_not_shown hnot] }

/-- Only a write to TCFG touches the timer, and none the counter, the lines or the parameters. -/
theorem sameOutside_writeNext_csrWrite {c : CsrName} (h : c ≠ .tcfg) (rd : Reg) (v value mask : Word)
    (s : State) : SameOutside s (writeNext rd v (csrWrite (csrNumber c) value mask s)) := by
  rw [csrWrite_csrNumber]
  cases c with
  | tcfg => exact absurd rfl h
  | _ => exact ⟨rfl, rfl, rfl, rfl, rfl, rfl, rfl, rfl⟩

/-- The words of CSRXCHG for every rj: rj 0 and 1, which are not well-formed, have the bits of the row
too. -/
theorem row_csrxchg (rd rj : Reg) (csr : BitVec 14) :
    Row (.csrxchg rd rj csr) 0x04000000 0xFF000000 :=
  (encode2RI14_row _ _ _ _).trans rfl

/-- Such a register shows in itself, and some show in PGD. -/
theorem shown_of_storage :
    ∀ c ∈ storageNames, ∀ d ∈ c.shownIn, csrNumber d ∈ [csrNumber c, 0x1B#14] := by decide

/-- Both instructions on a register whose write merges the bits `rw`. -/
theorem writes_merged {c : CsrName} {rw : Word} {changed : List (BitVec 14)} {i : Instr} {rd : Reg}
    {s : State} {mask : Word} (hshown : ∀ d ∈ c.shownIn, csrNumber d ∈ changed) (htimer : c ≠ .tcfg)
    (hstore : ∀ w ones, csrWord c (csrStore c w ones s) = mergeBits (csrWord c s) w rw)
    (hexec : exec i s = .next (writeNext rd (csrRead (csrNumber c) s)
      (csrWrite (csrNumber c) (s.reg rd) mask s))) :
    ∃ t, exec i s = .next t ∧ SwapsCsr rd (csrNumber c) changed s t ∧ SameOutside s t ∧
      csrRead (csrNumber c) t = maskedWrite (csrRead (csrNumber c) s) (s.reg rd) mask rw := by
  refine ⟨_, hexec, swapsCsr_writeNext_csrWrite hshown rd _ _ s,
    sameOutside_writeNext_csrWrite htimer rd _ _ _ s, ?_⟩
  rw [csrRead_writeNext, csrWrite_csrNumber, csrRead_csrNumber, csrRead_csrNumber, hstore,
    mergeBits_maskedWord]

theorem ne_tcfg_of_storage : ∀ c ∈ storageNames, c ≠ .tcfg := by decide

/-- Settles O28: the twenty-one registers are `storageNames`, each with its `rwBits`. -/
theorem csrStorageWrite : Obligations.CsrStorageWrite := by
  intro s rd rj csr rw h hp
  rw [storageCsrs_eq_map, List.mem_map] at h
  obtain ⟨c, hc, heq⟩ := h
  obtain ⟨rfl, rfl⟩ := Prod.mk.inj heq
  have hwrites {i : Instr} {mask : Word} :=
    writes_merged (i := i) (rd := rd) (s := s) (mask := mask) (shown_of_storage c hc)
      (ne_tcfg_of_storage c hc) fun w ones => csrWord_csrStore_storage hc w ones s
  exact ⟨⟨EncodingMatchesTable.csrwr rd _ rfl, hwrites (exec_csrwr_kernel hp rd _)⟩,
    row_csrxchg rd rj _, hwrites (exec_csrxchg_kernel hp rd rj _)⟩

end Sys2Proof.Machine
end

section
/-! PROOFS. Writes to the CSRs that do more than store, or whose width is a parameter: TICLR, LLBCTL,
TCFG and TLBIDX (`10_state.md` R40, R50, R52, R53, `45_privileged.md` R333 c to e,
`60_exceptions.md` R444). -/

namespace Sys2Proof.Machine

/-! TICLR and LLBCTL. -/

theorem estatWord_csrStore_ticlr (w ones : Word) (s : State) :
    estatWord (csrStore .ticlr w ones s) =
      if ones.getLsbD 0 then estatWord s &&& ~~~0x800#32 else estatWord s := by
  unfold csrStore
  cases ones.getLsbD 0 with
  | true => simp only [Bool.not_true, Bool.and_false, estatWord_clear_ti, if_true]
  | false => simp only [Bool.not_false, Bool.and_true]; rfl

theorem csrRead_estat_csrWrite_ticlr (value mask : Word) (s : State) :
    csrRead 0x5#14 (csrWrite 0x44#14 value mask s) =
      if (value &&& mask).getLsbD 0 then csrRead 0x5#14 s &&& ~~~0x800#32 else csrRead 0x5#14 s := by
  have hread (t : State) : csrRead 0x5#14 t = estatWord t := csrRead_csrNumber .estat t
  have hwrite := csrWrite_csrNumber .ticlr value mask s
  rw [hread, hread, ← estatWord_csrStore_ticlr (maskedWord (csrWord .ticlr s) value mask)]
  exact congrArg estatWord hwrite

/-- LLbit and KLO after a write to LLBCTL. -/
theorem csrWrite_llbctl (value mask : Word) (s : State) :
    (csrWrite 0x60#14 value mask s).llbit = (s.llbit && !(value &&& mask).getLsbD 1) ∧
      (csrWrite 0x60#14 value mask s).csr.klo =
        if mask.getLsbD 2 then value.getLsbD 2 else s.csr.klo := by
  have hwrite := csrWrite_csrNumber .llbctl value mask s
  have hklo : (llbctlWord s).getLsbD 2 = s.csr.klo := by
    rw [llbctlWord]
    change BitVec.getLsbD (w := 29 + 1 + 1 + 1) _ 2 = _
    simp only [BitVec.getLsbD_append, flagBit]
    simp
  refine ⟨congrArg State.llbit hwrite, (congrArg (·.csr.klo) hwrite).trans ?_⟩
  show (maskedWord (llbctlWord s) value mask).getLsbD 2 = _
  rw [maskedWord_eq_mergeBits, getLsbD_mergeBits (by decide), hklo]

/-- Settles O30: each of the four is `swapsCsr_writeNext_csrWrite` with what the written ones did. -/
theorem csrActions : Obligations.CsrActions := by
  intro s rd rj hp
  have hticlr (mask : Word) :=
    swapsCsr_writeNext_csrWrite (c := .ticlr) (changed := [0x5#14]) (by decide) rd (s.reg rd) mask s
  have hllbctl (mask : Word) :=
    swapsCsr_writeNext_csrWrite (c := .llbctl) (changed := [0x60#14]) (by decide) rd (s.reg rd) mask s
  have houtside (c : CsrName) (hc : c ≠ .tcfg) (mask : Word) :=
    sameOutside_writeNext_csrWrite hc rd (csrRead (csrNumber c) s) (s.reg rd) mask s
  refine ⟨⟨_, exec_csrwr_kernel hp rd _, hticlr _, houtside .ticlr nofun _, ?ticlrAll⟩,
    ⟨_, exec_csrxchg_kernel hp rd rj _, hticlr _, houtside .ticlr nofun _, ?ticlrMask⟩,
    ⟨_, exec_csrwr_kernel hp rd _, hllbctl _, houtside .llbctl nofun _, ?llbctlAll⟩,
    ⟨_, exec_csrxchg_kernel hp rd rj _, hllbctl _, houtside .llbctl nofun _, ?llbctlMask⟩⟩
  case ticlrAll =>
    rw [csrRead_writeNext, csrRead_estat_csrWrite_ticlr, BitVec.and_allOnes]
  case ticlrMask =>
    rw [csrRead_writeNext, csrRead_estat_csrWrite_ticlr, BitVec.getLsbD_and]
    simp only [Bool.and_eq_true]
  case llbctlAll =>
    obtain ⟨hllbit, hklo⟩ := csrWrite_llbctl (s.reg rd) (BitVec.allOnes 32) s
    rw [BitVec.and_allOnes] at hllbit
    exact ⟨hllbit, hklo⟩
  case llbctlMask =>
    obtain ⟨hllbit, hklo⟩ := csrWrite_llbctl (s.reg rd) (s.reg rj) s
    rw [BitVec.getLsbD_and] at hllbit
    exact ⟨hllbit, hklo⟩

/-! TCFG. -/

/-- InitVal is the written word's bits below the width of the counter, without the two lowest. -/
theorem toNat_initVal_ofWord {bits : Nat} (h3 : 3 ≤ bits) (h32 : bits ≤ 32) (w : Word) :
    (Tcfg.ofWord bits w).initVal.toNat = w.toNat % 2 ^ bits / 4 := by
  have hpow : 2 ^ bits = 4 * 2 ^ (bits - 2) := by
    rw [show (4 : Nat) = 2 ^ 2 from rfl, ← Nat.pow_add, Nat.add_sub_cancel' (by omega)]
  have hfield : (w.extractLsb' 2 30).toNat = w.toNat / 4 := by
    rw [BitVec.extractLsb'_toNat, Nat.shiftRight_eq_div_pow]
    omega
  rw [Tcfg.ofWord, toNat_lowBits, hfield, hpow, Nat.mod_mul_right_div_self]

/-- The whole of a write to TCFG. -/
theorem csrWrite_tcfg (value mask : Word) (s : State) :
    csrWrite 0x41#14 value mask s =
      loadTimer (Tcfg.ofWord s.params.timerBits (maskedWord (csrRead 0x41#14 s) value mask)) s :=
  (csrWrite_csrNumber .tcfg value mask s).trans (by rw [← csrRead_csrNumber]; rfl)

/-- The word that TCFG takes, for either instruction. -/
theorem exec_csr_tcfg {s : State} {rd rj : Reg} {i : Instr} {w : Word} (hp : s.csr.crmd.plv = 0#2)
    (hi : i = .csrwr rd 0x41#14 ∧ w = s.reg rd ∨
      i = .csrxchg rd rj 0x41#14 ∧
        w = maskedWrite (csrRead 0x41#14 s) (s.reg rd) (s.reg rj) 0xFFFFFFFF#32) :
    ∃ mask, w = maskedWord (csrRead 0x41#14 s) (s.reg rd) mask ∧
      exec i s =
        .next (writeNext rd (csrRead 0x41#14 s) (csrWrite 0x41#14 (s.reg rd) mask s)) := by
  obtain ⟨rfl, rfl⟩ | ⟨rfl, rfl⟩ := hi
  · exact ⟨_, (maskedWord_allOnes _ _).symm, exec_csrwr_kernel hp rd _⟩
  · exact ⟨_, (maskedWord_eq_maskedWrite _ _ _).symm, exec_csrxchg_kernel hp rd rj _⟩

/-- Settles O31: the registers and CSRs are those of every CSR write; the timer is `loadTimer_eq` on
the word written. -/
theorem csrTimerConfiguration : Obligations.CsrTimerConfiguration := by
  intro s rd rj hs hp i w hi
  obtain ⟨mask, rfl, hexec⟩ := exec_csr_tcfg hp hi
  refine ⟨_, hexec, swapsCsr_writeNext_csrWrite (c := .tcfg) (by decide) rd (s.reg rd) mask s, ?_⟩
  obtain ⟨hbits3, hbits32⟩ := timerBits_of_params_wf hs.params
  rw [csrWrite_tcfg, loadTimer_eq]
  generalize maskedWord (csrRead 0x41#14 s) (s.reg rd) mask = w
  refine ⟨rfl, rfl, toNat_initVal_ofWord hbits3 hbits32 w, rfl, ?count, rfl, rfl, rfl, rfl, rfl, rfl⟩
  case count =>
    show BitVec.toNat (if _ then _ else _) = _
    rw [apply_ite BitVec.toNat, toNat_append_zeros]
    rfl

/-! TLBIDX. -/

/-- `TLB_IDX_BITS` is ceil(log2(TLB_ENTRIES)). -/
theorem eq_tlbIdxBits_of_isCeilLog2 {n entries : Nat} (h : IsCeilLog2 n entries) :
    n = tlbIdxBits entries := by
  obtain ⟨hle, hleast⟩ := h
  exact le_antisymm (hleast _ (length_le_two_pow_tlbIdxBits entries)) (tlbIdxBits_le_iff.2 hle)

/-- The mask of the statements, cut at the borders of the fields. -/
theorem tlbidxMask_eq_append {n : Nat} (hn : n ≤ 16) :
    0xBF000000#32 + BitVec.ofNat 32 (2 ^ n - 1) =
      BitVec.allOnes 1 ++ 0#1 ++ BitVec.allOnes 6 ++ 0#8 ++ BitVec.ofNat 16 (2 ^ n - 1) := by
  have hpow : 2 ^ n ≤ 2 ^ 16 := Nat.pow_le_pow_right (by decide) hn
  refine BitVec.eq_of_toNat_eq ?_
  simp only [BitVec.toNat_add, toNat_append_eq_add, BitVec.toNat_ofNat, BitVec.toNat_allOnes]
  omega

/-- Of an index that fits its width nothing is left above the bits written. -/
theorem mergeBits_index {n : Nat} {old : BitVec 16} (h : old.toNat < 2 ^ n) (v : BitVec 16) :
    mergeBits old v (BitVec.ofNat 16 (2 ^ n - 1)) = lowBits n v := by
  have hclear : old &&& ~~~BitVec.ofNat 16 (2 ^ n - 1) = 0#16 := by
    refine BitVec.eq_of_getLsbD_eq fun k hk => ?_
    have hbit : (BitVec.ofNat 16 (2 ^ n - 1)).getLsbD k = decide (k < n) := by
      rw [BitVec.getLsbD_ofNat, Nat.testBit_two_pow_sub_one, decide_eq_true hk, Bool.true_and]
    rw [BitVec.getLsbD_and, BitVec.getLsbD_not, hbit, decide_eq_true hk, Bool.true_and,
      BitVec.getLsbD_zero]
    by_cases hkn : k < n
    · rw [decide_eq_true hkn, Bool.not_true, Bool.and_false]
    · have hhigh : old.getLsbD k = false :=
        Nat.testBit_lt_two_pow (h.trans_le (Nat.pow_le_pow_right (by decide) (Nat.le_of_not_lt hkn)))
      rw [hhigh, Bool.false_and]
  rw [mergeBits, hclear, BitVec.zero_or, lowBits]

theorem csrWord_csrStore_tlbidx {s : State} (hs : Invariant s) (w ones : Word) :
    csrWord .tlbidx (csrStore .tlbidx w ones s) =
      mergeBits (csrWord .tlbidx s) w
        (0xBF000000#32 + BitVec.ofNat 32 (2 ^ tlbIdxBits s.tlb.length - 1)) := by
  have hbits : tlbIdxBits s.tlb.length ≤ 16 := tlbIdxBits_le_iff.2 hs.tlbSize.2
  rw [tlbidxMask_eq_append hbits]
  refine Eq.trans ?_ (TlbIdx.mergeBits_toWord s.csr.tlbidx w _).symm
  rw [mergeBits_index hs.index]
  rfl

/-- Settles O32: the fields are merged one by one, and the invariant bounds the old Index. -/
theorem csrTlbIndex : Obligations.CsrTlbIndex := by
  intro s rd rj n hs hp hn
  obtain rfl := eq_tlbIdxBits_of_isCeilLog2 hn
  have hwrites {i : Instr} {mask : Word} :=
    writes_merged (c := .tlbidx) (changed := [0x10#14]) (i := i) (rd := rd) (s := s) (mask := mask)
      (by decide) nofun fun w ones => csrWord_csrStore_tlbidx hs w ones
  exact ⟨hwrites (exec_csrwr_kernel hp rd _), hwrites (exec_csrxchg_kernel hp rd rj _)⟩

end Sys2Proof.Machine
end
